-- ==== Sys2Proof/Word.lean ====
section
/-! DEFINITION. The two word widths of the block: the byte of a packet or a transaction, and the 16-bit slot value
(10_state.md R11, 20_memory.md R31, R37). -/

namespace Sys2Proof

/-- One byte of a command packet or of a bus transaction. -/
abbrev Byte := BitVec 8

/-- A 16-bit value: a segment mask, a slot value, an unsigned operand (R8 `bits16`). -/
abbrev Word := BitVec 16

end Sys2Proof
end

