-- ==== Sys2Proof/Config.lean ====
section
/-! DEFINITION. What an implementation fixes: the constants of 00_scope.md R5, the named parameters of R6, and the
values the spec leaves open (the glyph words it never prints, the bus's answers). -/

namespace Sys2Proof

/-- Characters per frame, and the scroll padding on each side (R5 `WIDTH`). -/
abbrev width : Nat := 4

/-- The character code of the pad character (R5 `SPACE`). PRESUMED: the number 32 is ASCII's (93 G4, log entry 13);
unsafe if the repository's pad character had another code. -/
abbrev spaceCode : Int := 32

/-- The index of the fallback glyph (R5 `FALLBACK`). -/
abbrev fallbackIndex : Fin 128 := 127

/-- The decimal-point bit, bit 14 (R5 `K_DP`). -/
abbrev kDp : Word := 0x4000#16

/-- The first byte of every frame transaction (R5 `START_ADDR`). -/
abbrev startAddr : Byte := 0x00#8

/-- The bus's answer to one transaction (20_memory.md R44). -/
inductive BusAnswer where
  | ok
  | fail (e : Word)
deriving DecidableEq, Repr, Inhabited

/-- The named parameters of R6. R25: none of them is state and no operation changes one. -/
structure Config where
  /-- `GLYPH_ROM`, 128 words indexed by character code (R31, R83). -/
  rom : Vector Word 128
  /-- `K_OSC_ON`. -/
  kOscOn : Byte
  /-- `K_BLINK_CMD`. -/
  kBlinkCmd : Byte
  /-- `K_DISPLAY_ON`. -/
  kDisplayOn : Byte
  /-- `K_BRIGHT_CMD`. -/
  kBrightCmd : Byte
  /-- `DEV_ADDR`, 7 bits (D7). -/
  devAddr : BitVec 7
  /-- `TEXT_MAX`. -/
  textMax : Nat
  /-- `BRIGHT_SKIP`. -/
  brightSkip : Bool
  /-- `BUS_PRESENT`. -/
  busPresent : Bool
  /-- `INIT_LEVEL_DEFAULT`, used by the assembler only (R75). -/
  initLevelDefault : BitVec 4
  /-- `INIT_RATE_DEFAULT`, used by the assembler only (R75). -/
  initRateDefault : BitVec 2
  /-- `SCROLL_INTERVAL_DEFAULT` in milliseconds, used by the assembler only (R75). -/
  scrollIntervalDefault : Word
deriving DecidableEq, Repr

/-- The constraints R6 puts on the parameters: the two glyph words J5 fixes (R83), command constants that leave
their field bits clear, and `TEXT_MAX` ≤ 65530. -/
def Config.wf (c : Config) : Bool :=
  decide (c.rom[32] = 0x0000#16) && decide (c.rom[127] = 0x3FFF#16)
    && decide (c.kBlinkCmd &&& 0x07#8 = 0) && decide (c.kDisplayOn &&& 0x06#8 = 0)
    && decide (c.kBrightCmd &&& 0x0F#8 = 0) && decide (c.textMax ≤ 65530)

/-- A glyph word the spec does not give (R83, 91 N1): nothing constrains it (log entry 2). -/
opaque Config.glyphFree : Nat → Word

/-- The bus's answer to the `n`-th transaction where none is supplied in `State.answers` (R44, 93 U5): nothing
constrains it (log entry 4). -/
opaque Config.busFree : Nat → BusAnswer

/-- A table that meets R83 and says nothing else: entry 32 and entry 127 are the spec's, the others free. -/
def Config.openRom : Vector Word 128 :=
  Vector.ofFn fun i => if i = 32 then 0x0000#16 else if i = 127 then 0x3FFF#16 else Config.glyphFree i.val

/-- The parameters at R6's defaults ("that a model may use when nothing else is said"), with a free table. -/
def Config.default : Config where
  rom := Config.openRom
  kOscOn := 0x21#8
  kBlinkCmd := 0x80#8
  kDisplayOn := 0x01#8
  kBrightCmd := 0xE0#8
  devAddr := 0x70#7
  textMax := 255
  brightSkip := true
  busPresent := true
  initLevelDefault := 15#4
  initRateDefault := 0#2
  scrollIntervalDefault := 500#16

/-- The least width that holds `n` (R7). -/
def bitsFor (n : Nat) : Nat := if n = 0 then 0 else Nat.log2 n + 1

/-- `STEP_W`, the least width that holds `TEXT_MAX + 5` (R7). -/
def Config.stepW (c : Config) : Nat := bitsFor (c.textMax + 5)

/-- `LEN_W`, the least width that holds `TEXT_MAX` (R7). -/
def Config.lenW (c : Config) : Nat := bitsFor c.textMax

end Sys2Proof
end

