-- ==== Sys2Proof/Syntax.lean ====
section
/-! DEFINITION. The operations of the block: one constructor per row of spec/opcode_table.json (30_encoding.md R50,
R63, R64, R67). Operands are held as the rules read them: `level`, `rate` and character codes are integers (R52,
R53), slot values and `ivl` are 16-bit words. -/

namespace Sys2Proof

/-- A Frame: "exactly 4 glyph slots, each an independent 16-bit value" (10_state.md R11, 41_frame_encoder.md). -/
structure Frame where
  s0 : Word
  s1 : Word
  s2 : Word
  s3 : Word
deriving DecidableEq, Repr

/-- The rows of the opcode table. -/
inductive Instr where
  /-- `INIT level, rate` (R55, R102). -/
  | init (level rate : Int)
  /-- `SETBLINK rate` (R56, R103). -/
  | setblink (rate : Int)
  /-- `SETBRIGHT level` (R57, R105). -/
  | setbright (level : Int)
  /-- `WRFRAME s0, s1, s2, s3` (R58, R108). -/
  | wrframe (slots : Frame)
  /-- `WRTEXT text, dots` (R59, R109). -/
  | wrtext (text : List Int) (dots : List Bool)
  /-- `CLEAR` (R60, R110). -/
  | clear
  /-- `SCROLL mode, text, dots, ivl` (R61, R131); `stop` is bit 0 of the flags byte. -/
  | scroll (stop : Bool) (text : List Int) (dots : List Bool) (ivl : Word)
  /-- `SCRSTOP` (R62, R133). -/
  | scrstop
  /-- A packet whose first byte `op` is a reserved opcode (R65, R155). -/
  | reservedOpcode (op : Byte)
  /-- The packet without bytes (R64, R156). -/
  | emptyPacket
  /-- One pulse on the tick input (R63, R134). -/
  | tick
  /-- The reset event (R63, R180). -/
  | reset
  /-- The oscillator-enable transaction (R68). -/
  | wOsc
  /-- The blink transaction, with its 2-bit rate field (R69). -/
  | wBlink (rate : BitVec 2)
  /-- The brightness transaction, with its 4-bit level field (R70). -/
  | wBright (level : BitVec 4)
  /-- The frame transaction, the register buffer of a frame (R71). -/
  | wFrame (slots : Frame)
  /-- The internal function `lookup` (R80). -/
  | lookupGlyph (c : Int)
  /-- The internal function `encode` (R90). -/
  | encodeText (text : List Int) (dots : List Bool)
  /-- The internal function `serialize` (R95). -/
  | serializeFrame (slots : Frame)
deriving DecidableEq, Repr

end Sys2Proof
end

