-- ==== Sys2Proof/WellFormed.lean ====
section
/-! DEFINITION. Which operations have an encoding: the ranges of the packet fields (30_encoding.md R52, R53, R59,
R61, R65). An operation that fails a check here is nothing a host can present. -/

namespace Sys2Proof

/-- The range of a signed 16-bit operand, -32768..32767 (R52). -/
def fitsInt16 (v : Int) : Bool := decide (-32768 ≤ v) && decide (v ≤ 32767)

/-- Whether an operation has an encoding: every integer operand and character fits its signed 16-bit field (R52,
R53), the counts fit theirs (8 bits in `WRTEXT`, R59; 16 bits in `SCROLL`, R61), and a reserved opcode is one of
0x00 and 0x09..0xFF (R65). The internal functions take any integers (R80, R90). -/
def Instr.wellFormed : Instr → Bool
  | .init level rate => fitsInt16 level && fitsInt16 rate
  | .setblink rate => fitsInt16 rate
  | .setbright level => fitsInt16 level
  | .wrframe _ => true
  | .wrtext text dots => decide (text.length ≤ 255) && decide (dots.length ≤ 255) && text.all fitsInt16
  | .clear => true
  | .scroll _ text dots _ => decide (text.length ≤ 65535) && decide (dots.length ≤ 65535) && text.all fitsInt16
  | .scrstop => true
  | .reservedOpcode op => decide (op = 0x00#8) || decide (0x09#8 ≤ op)
  | .emptyPacket => true
  | .tick => true
  | .reset => true
  | .wOsc => true
  | .wBlink _ => true
  | .wBright _ => true
  | .wFrame _ => true
  | .lookupGlyph _ => true
  | .encodeText _ _ => true
  | .serializeFrame _ => true

end Sys2Proof
end

