-- ==== Sys2Proof/Decode.lean ====
section
/-! DEFINITION. The command decoder of 30_encoding.md R64, total on byte lists, the encoder written from the packet
layouts R55 to R62, and the wire encoding R67 to R71, read and written. -/

namespace Sys2Proof

/-! ### Bytes and 16-bit values (R35, R52: low byte first) -/

/-- `v[7:0]` (R35). -/
def loByte (v : Word) : Byte := v.extractLsb' 0 8

/-- `v[15:8]` (R35). -/
def hiByte (v : Word) : Byte := v.extractLsb' 8 8

/-- `hi << 8 | lo`, the unsigned 16-bit operand (R52). -/
def word16 (lo hi : Byte) : Word := hi ++ lo

/-- `sext_16(hi << 8 | lo)`, the signed 16-bit operand (R52, R53). -/
def sext16 (lo hi : Byte) : Int := (word16 lo hi).toInt

/-- The 16-bit two's-complement form of an integer operand (R8, R52). -/
def int16Word (v : Int) : Word := BitVec.ofInt 16 v

/-- The two bytes of an unsigned 16-bit operand (R52). -/
def wordBytes (v : Word) : List Byte := [loByte v, hiByte v]

/-- The two bytes of a signed 16-bit operand (R52). -/
def intBytes (v : Int) : List Byte := wordBytes (int16Word v)

/-- The eight data bytes of a frame: slots in ascending order, low byte first (R58, R71). -/
def frameBytes (f : Frame) : List Byte :=
  wordBytes f.s0 ++ wordBytes f.s1 ++ wordBytes f.s2 ++ wordBytes f.s3

/-! ### Character and flag lists -/

/-- `chars(p, o, n)` of R64, on the bytes from offset `o` on. -/
def chars : Nat → List Byte → List Int
  | n + 1, lo :: hi :: rest => sext16 lo hi :: chars n rest
  | _, _ => []

/-- `ceil(m / 8)`, the bytes of a list of `m` flags (R54). -/
def flagBytes (m : Nat) : Nat := (m + 7) / 8

/-- `flags(p, o, m)` of R64, on the bytes from offset `o` on: flag `j` is bit `j mod 8` of byte `floor(j/8)` (R54). -/
def flags (m : Nat) (p : List Byte) : List Bool :=
  (List.range m).map fun j => (p.getD (j / 8) 0#8).getLsbD (j % 8)

/-- One byte from eight flags, the first in bit 0 (R54). -/
def packByte (b0 b1 b2 b3 b4 b5 b6 b7 : Bool) : Byte :=
  BitVec.ofNat 8 (b0.toNat + 2 * b1.toNat + 4 * b2.toNat + 8 * b3.toNat + 16 * b4.toNat + 32 * b5.toNat
    + 64 * b6.toNat + 128 * b7.toNat)

/-- Byte `k` of a packed flag list; the spare high bits of the last byte are 0 (R54). -/
def flagByte (dots : List Bool) (k : Nat) : Byte :=
  packByte (dots.getD (8 * k) false) (dots.getD (8 * k + 1) false) (dots.getD (8 * k + 2) false)
    (dots.getD (8 * k + 3) false) (dots.getD (8 * k + 4) false) (dots.getD (8 * k + 5) false)
    (dots.getD (8 * k + 6) false) (dots.getD (8 * k + 7) false)

/-- A flag list packed into `ceil(m / 8)` bytes (R54). -/
def packFlags (dots : List Bool) : List Byte := (List.range (flagBytes dots.length)).map (flagByte dots)

/-! ### The decoder -/

/-- What the decoder answers: an operation, or `Bad(E_MALFORMED, op)` for a known opcode whose packet has another
length than the opcode and its counts require, or reserved flag bits set (R64, R66). The other two `Bad` results of
R64 have rows of their own in the opcode table, so they are operations here (log entry 17). -/
inductive Decoded where
  | instr (i : Instr)
  | malformed (op : Byte)
deriving DecidableEq, Repr

/-- R64's line for opcode 0x01; `p` is the packet after its first byte. -/
def decodeInit (p : List Byte) : Decoded :=
  match p with
  | [l0, l1, r0, r1] => .instr (.init (sext16 l0 l1) (sext16 r0 r1))
  | _ => .malformed 0x01#8

/-- R64's line for opcode 0x02. -/
def decodeSetblink (p : List Byte) : Decoded :=
  match p with
  | [r0, r1] => .instr (.setblink (sext16 r0 r1))
  | _ => .malformed 0x02#8

/-- R64's line for opcode 0x03. -/
def decodeSetbright (p : List Byte) : Decoded :=
  match p with
  | [l0, l1] => .instr (.setbright (sext16 l0 l1))
  | _ => .malformed 0x03#8

/-- R64's line for opcode 0x04. -/
def decodeWrframe (p : List Byte) : Decoded :=
  match p with
  | [a0, a1, b0, b1, c0, c1, d0, d1] =>
    .instr (.wrframe ⟨word16 a0 a1, word16 b0 b1, word16 c0 c1, word16 d0 d1⟩)
  | _ => .malformed 0x04#8

/-- R64's lines for opcode 0x05. -/
def decodeWrtext (p : List Byte) : Decoded :=
  match p with
  | n :: m :: body =>
    if body.length = 2 * n.toNat + flagBytes m.toNat then
      .instr (.wrtext (chars n.toNat body) (flags m.toNat (body.drop (2 * n.toNat))))
    else .malformed 0x05#8
  | _ => .malformed 0x05#8

/-- R64's line for opcode 0x06. -/
def decodeClear (p : List Byte) : Decoded :=
  match p with
  | [] => .instr .clear
  | _ => .malformed 0x06#8

/-- R64's lines for opcode 0x07; reserved flag bits are tested first, then the length. -/
def decodeScroll (p : List Byte) : Decoded :=
  match p with
  | fl :: i0 :: i1 :: n0 :: n1 :: m0 :: m1 :: body =>
    if fl.extractLsb' 1 7 ≠ 0#7 then .malformed 0x07#8
    else if body.length = 2 * (word16 n0 n1).toNat + flagBytes (word16 m0 m1).toNat then
      .instr (.scroll (fl.getLsbD 0) (chars (word16 n0 n1).toNat body)
        (flags (word16 m0 m1).toNat (body.drop (2 * (word16 n0 n1).toNat))) (word16 i0 i1))
    else .malformed 0x07#8
  | _ => .malformed 0x07#8

/-- R64's line for opcode 0x08. -/
def decodeScrstop (p : List Byte) : Decoded :=
  match p with
  | [] => .instr .scrstop
  | _ => .malformed 0x08#8

/-- `decode(p)` of R64: a total function on byte lists; the first byte alone selects the line. -/
def decode (packet : List Byte) : Decoded :=
  match packet with
  | [] => .instr .emptyPacket
  | op :: p =>
    if op = 0x01#8 then decodeInit p
    else if op = 0x02#8 then decodeSetblink p
    else if op = 0x03#8 then decodeSetbright p
    else if op = 0x04#8 then decodeWrframe p
    else if op = 0x05#8 then decodeWrtext p
    else if op = 0x06#8 then decodeClear p
    else if op = 0x07#8 then decodeScroll p
    else if op = 0x08#8 then decodeScrstop p
    else .instr (.reservedOpcode op)

/-! ### The encoder -/

/-- The packet of an operation, from the layouts R55 to R62; a reserved opcode is a packet of that one byte; `none`
for what no packet carries: the two events (R63), the wire transactions and the internal functions (R50). -/
def encode : Instr → Option (List Byte)
  | .init level rate => some (0x01#8 :: (intBytes level ++ intBytes rate))
  | .setblink rate => some (0x02#8 :: intBytes rate)
  | .setbright level => some (0x03#8 :: intBytes level)
  | .wrframe f => some (0x04#8 :: frameBytes f)
  | .wrtext text dots =>
    some (0x05#8 :: BitVec.ofNat 8 text.length :: BitVec.ofNat 8 dots.length
      :: (text.flatMap intBytes ++ packFlags dots))
  | .clear => some [0x06#8]
  | .scroll stop text dots ivl =>
    some (0x07#8 :: (if stop then 0x01#8 else 0x00#8)
      :: (wordBytes ivl ++ wordBytes (BitVec.ofNat 16 text.length) ++ wordBytes (BitVec.ofNat 16 dots.length)
        ++ text.flatMap intBytes ++ packFlags dots))
  | .scrstop => some [0x08#8]
  | .reservedOpcode op => some [op]
  | .emptyPacket => some []
  | .tick => none
  | .reset => none
  | .wOsc => none
  | .wBlink _ => none
  | .wBright _ => none
  | .wFrame _ => none
  | .lookupGlyph _ => none
  | .encodeText _ _ => none
  | .serializeFrame _ => none

/-- The opcode byte of a command, the first byte of its packet (R50, R51); `none` where there is no first byte. -/
def opcodeByte : Instr → Option Byte
  | .init _ _ => some 0x01#8
  | .setblink _ => some 0x02#8
  | .setbright _ => some 0x03#8
  | .wrframe _ => some 0x04#8
  | .wrtext _ _ => some 0x05#8
  | .clear => some 0x06#8
  | .scroll _ _ _ _ => some 0x07#8
  | .scrstop => some 0x08#8
  | .reservedOpcode op => some op
  | .emptyPacket => none
  | .tick => none
  | .reset => none
  | .wOsc => none
  | .wBlink _ => none
  | .wBright _ => none
  | .wFrame _ => none
  | .lookupGlyph _ => none
  | .encodeText _ _ => none
  | .serializeFrame _ => none

/-- The packet length the opcode and the counts require (R55 to R62 and the table's `length` column); `none` for
what no packet carries. -/
def packetLength : Instr → Option Nat
  | .init _ _ => some 5
  | .setblink _ => some 3
  | .setbright _ => some 3
  | .wrframe _ => some 9
  | .wrtext text dots => some (3 + 2 * text.length + flagBytes dots.length)
  | .clear => some 1
  | .scroll _ text dots _ => some (8 + 2 * text.length + flagBytes dots.length)
  | .scrstop => some 1
  | .reservedOpcode _ => some 1
  | .emptyPacket => some 0
  | .tick => none
  | .reset => none
  | .wOsc => none
  | .wBlink _ => none
  | .wBright _ => none
  | .wFrame _ => none
  | .lookupGlyph _ => none
  | .encodeText _ _ => none
  | .serializeFrame _ => none

/-! ### The wire encoding -/

/-- The blink byte `K_BLINK_CMD | (rate << 1) | K_DISPLAY_ON` (R69). -/
def blinkByte (c : Config) (rate : BitVec 2) : Byte :=
  c.kBlinkCmd ||| (rate.setWidth 8 <<< 1) ||| c.kDisplayOn

/-- The brightness byte `K_BRIGHT_CMD | level` (R70). -/
def brightByte (c : Config) (level : BitVec 4) : Byte := c.kBrightCmd ||| level.setWidth 8

/-- The bytes of a wire transaction (R68 to R71); `none` for what is no wire transaction. -/
def encodeWire (c : Config) : Instr → Option (List Byte)
  | .wOsc => some [c.kOscOn]
  | .wBlink rate => some [blinkByte c rate]
  | .wBright level => some [brightByte c level]
  | .wFrame f => some (startAddr :: frameBytes f)
  | _ => none

/-- Which transaction of the block has these bytes (R67 to R71, with the masks of the table's wire rows); `none`
where no command produces them (R72). -/
def decodeWire (c : Config) (bytes : List Byte) : Option Instr :=
  match bytes with
  | [b] =>
    if b = c.kOscOn then some .wOsc
    else if b &&& 0xF9#8 = c.kBlinkCmd ||| c.kDisplayOn then some (.wBlink (b.extractLsb' 1 2))
    else if b &&& 0xF0#8 = c.kBrightCmd then some (.wBright (b.extractLsb' 0 4))
    else none
  | [a, x0, x1, y0, y1, z0, z1, w0, w1] =>
    if a = startAddr then some (.wFrame ⟨word16 x0 x1, word16 y0 y1, word16 z0 z1, word16 w0 w1⟩) else none
  | _ => none

/-! ### Words numbered as the opcode table numbers them -/

/-- The `k` lowest bytes of `w`, the least significant first. -/
def numberBytes : Nat → Nat → List Byte
  | 0, _ => []
  | k + 1, w => BitVec.ofNat 8 w :: numberBytes k (w / 256)

/-- How many bytes the packet with these first bytes has, absent bytes read as 0 (R55 to R62); a packet that no
command's first byte opens has the length it comes with. -/
def requiredLength (p : List Byte) : Nat :=
  match p with
  | [] => 0
  | op :: q =>
    if op = 0x01#8 then 5
    else if op = 0x02#8 then 3
    else if op = 0x03#8 then 3
    else if op = 0x04#8 then 9
    else if op = 0x05#8 then 3 + 2 * (q.getD 0 0#8).toNat + flagBytes (q.getD 1 0#8).toNat
    else if op = 0x06#8 then 1
    else if op = 0x07#8 then
      8 + 2 * (word16 (q.getD 3 0#8) (q.getD 4 0#8)).toNat
        + flagBytes (word16 (q.getD 5 0#8) (q.getD 6 0#8)).toNat
    else if op = 0x08#8 then 1
    else p.length

/-- The bytes filled with zeros up to `n`. -/
def padBytes (n : Nat) (p : List Byte) : List Byte := p ++ List.replicate (n - p.length) 0#8

/-- The packet of `nbits` bits whose number is `w`, operand bytes above `nbits` zero. -/
def tableBytes (nbits w : Nat) : List Byte :=
  let p := numberBytes ((nbits + 7) / 8) w
  padBytes (requiredLength p) p

/-- The wire row a number stands for, with the table's constants (R6's defaults): one byte, or a frame whose first
byte is the start address, filled with zeros. -/
def tableWire (nbits w : Nat) : Option Instr :=
  let p := numberBytes ((nbits + 7) / 8) w
  match p with
  | [] => none
  | a :: _ => decodeWire Config.default (if a = startAddr then padBytes 9 p else p)

/-- The row of the opcode table a number stands for. The table numbers two byte spaces, the packets a host presents
and the transactions the block produces. A number that opens a command's packet is read by `decode`; one that does
not is a wire row if it is one, and else `RESERVED_OPCODE`, the row the table gives the lowest priority
(log entry 10). -/
def decodeTableWord (nbits w : Nat) : Option Instr :=
  match decode (tableBytes nbits w) with
  | .instr (.reservedOpcode op) =>
    match tableWire nbits w with
    | some i => some i
    | none => some (.reservedOpcode op)
  | .instr i => some i
  | .malformed _ => none

end Sys2Proof
end

