-- ==== Sys2Proof/Machine/State.lean ====
section
/-! DEFINITION. The state record of 10_state.md R10, the block's interface (R26 to R28) and the state after reset
(70_reset_and_hazards.md R181), all plain data. -/

namespace Sys2Proof.Machine

/-- The causes of 60_exceptions.md R151 that an `Err` record carries. -/
inductive Cause where
  /-- `E_NOBUS`, code 1 (R152). -/
  | noBus
  /-- `E_BUSERR`, code 2 (R153). -/
  | busErr
  /-- `E_NOINIT`, code 3 (R154). -/
  | noInit
  /-- `E_BADOP`, code 4 (R155). -/
  | badOp
  /-- `E_MALFORMED`, code 5 (R156). -/
  | malformed
  /-- `E_TOOLONG`, code 6 (R157). -/
  | tooLong
deriving DecidableEq, Repr

/-- The output alphabet of R28. -/
inductive Output where
  /-- One bus transaction to device address `a`. -/
  | busWrite (a : BitVec 7) (bytes : List Byte)
  /-- `Log(UNMAPPED, c)`: the out-of-range code `c` was resolved to the fallback glyph. -/
  | log (c : Int)
  /-- `Err(cause, info)`. -/
  | err (cause : Cause) (info : Word)
  /-- `TimerArm(ivl)`. -/
  | timerArm (ivl : Word)
  /-- `TimerCancel`. -/
  | timerCancel
deriving DecidableEq, Repr

/-- The four transactions the block can put on the bus (R67 to R71, R167). -/
inductive Wire where
  | osc
  | blink (rate : BitVec 2)
  | bright (level : BitVec 4)
  | frame (slots : Frame)
deriving DecidableEq, Repr

/-- The serializer's state (R23, R113): each busy state carries what R113 says is latched in it. -/
inductive Serializer where
  /-- `S_IDLE`. -/
  | idle
  /-- `S_CMD` with the configuration byte. -/
  | cmd (b : Byte)
  /-- `S_ADDR` with the latched frame. -/
  | addr (slots : Frame)
  /-- `S_DATA` with the latched frame and `bidx`. -/
  | data (slots : Frame) (bidx : Fin 8)
deriving DecidableEq, Repr

/-- One byte on the bus port with its marks (R113). -/
structure BusByte where
  byte : Byte
  first : Bool
  last : Bool
deriving DecidableEq, Repr

/-- The session registers, which exist exactly while `active` = 1 (R10, R17 to R22, 93 U11; log entry 15). -/
structure Session where
  /-- `TB`: code and DP flag of each character (R18); `L` is its length. -/
  tb : List (Int × Bool)
  /-- `ivl` (R19). -/
  ivl : Word
  /-- `stop` (R20). -/
  stop : Bool
  /-- `step`, the sliding pointer (R21). -/
  step : Nat
  /-- `total` (R22). -/
  total : Nat
deriving DecidableEq, Repr

/-- `L`, the length of the session's text (R18). -/
abbrev Session.len (x : Session) : Nat := x.tb.length

/-- Bytes by address, in rising order of address; an address not listed has no value. -/
abbrev Memory := List Host.Cell

/-- What was last sent to each of the device's write-only registers (R33, R167): what the block has put on the wire,
never a read of the device (R2). -/
structure Device where
  /-- The oscillator register. -/
  osc : Option Byte
  /-- The blink and display-on register. -/
  blink : Option Byte
  /-- The brightness register. -/
  bright : Option Byte
  /-- The display memory. -/
  ram : Memory
deriving DecidableEq, Repr

/-- The pins of the lookup port (R27, R86): the code presented and what the table drives back. -/
structure LookupPins where
  code : Int
  mask : Word
  unmapped : Bool
deriving DecidableEq, Repr

/-- A table row that no packet and no event of R26 names: a wire transaction, or a function of one unit run by
itself. The MODEL's own input (log entry 9). -/
inductive UnitOp where
  | wOsc
  | wBlink (rate : BitVec 2)
  | wBright (level : BitVec 4)
  | wFrame (slots : Frame)
  /-- The lookup port's input `lk_code`, 16 bits (R86). -/
  | lookup (code : Word)
  | encode (text : List Int) (dots : List Bool)
  | serialize (slots : Frame)
deriving DecidableEq, Repr

/-- An input event (R26): a command packet, a tick, a reset, or the model's own unit operation. -/
inductive Event where
  | cmd (packet : List Byte)
  | tick
  | reset
  | unit (u : UnitOp)
deriving DecidableEq, Repr

/-- The state of the machine. -/
structure State where
  /-- The parameters of R6: not state (R25), written by nothing; here because a step is given only a state (log
  entry 1). -/
  cfg : Config
  /-- `inited` (R12). -/
  inited : Bool
  /-- `blink` (R13). -/
  blink : Option (BitVec 2)
  /-- `bright` (R14). -/
  bright : Option (BitVec 4)
  /-- `F[0..3]` (R11). -/
  frame : Option Frame
  /-- The session registers; `active` = 1 exactly when they are present (R10, R17). -/
  session : Option Session
  /-- `fatal` (R16, R152). -/
  fatal : Bool
  /-- `status`, 8 sticky cause bits (R16, R151). -/
  status : BitVec 8
  /-- The serializer (R23, R113; log entry 14). -/
  ser : Serializer
  /-- What was last sent to the device (R33, R167). -/
  device : Device
  /-- The lookup port (R86; log entry 7). -/
  lk : LookupPins
  /-- The result of `encode` run by itself; the MODEL's own (log entry 8). -/
  encOut : Frame
  /-- The result of `serialize` run by itself; the MODEL's own (log entry 8). -/
  serOut : List Byte
  /-- The input events still to come, oldest first (R26; log entry 3). -/
  input : List Event
  /-- The bus's answers still to be given, oldest first (R44; log entry 4). -/
  answers : List BusAnswer
  /-- How many transactions have been answered, the argument of the free answer (R44, 93 U5); the MODEL's own. -/
  busSeq : Nat
  /-- The output trace since the last reset, oldest first (R28, R191). -/
  trace : List Output
deriving DecidableEq, Repr

/-- `active` (R17). -/
abbrev State.active (s : State) : Bool := s.session.isSome

/-- Why the machine could stop with a fault: never. R160: every fault of the block is a record and a sticky bit, after
which "the next event is processed normally"; R191: "There is no halt operation". So the type has no constructor (log
entry 19). -/
inductive Fault where
deriving DecidableEq, Repr

/-- Why a step could have no meaning. -/
inductive Refusal where
  /-- The host's name for an instruction without a meaning; no arm of `exec` uses it (safe: it would only stop). -/
  | notModelled (mnemonic : String)
deriving DecidableEq, Repr

/-- The frame of four spaces, all zero (R97). -/
abbrev blankFrame : Frame := ⟨0x0000#16, 0x0000#16, 0x0000#16, 0x0000#16⟩

/-- The machine right after a first reset with the parameters `c` (R181, R182), nothing sent yet, no event pending
and no answer supplied. -/
def State.powerOn (c : Config) : State where
  cfg := c
  inited := false
  blink := none
  bright := none
  frame := none
  session := none
  fatal := !c.busPresent
  status := if c.busPresent then 0x00#8 else 0x02#8
  ser := .idle
  device := { osc := none, blink := none, bright := none, ram := [] }
  lk := { code := 0, mask := c.rom[0], unmapped := false }
  encOut := blankFrame
  serOut := List.replicate 9 0x00#8
  input := []
  answers := []
  busSeq := 0
  trace := if c.busPresent then [] else [.err .noBus 0x0000#16]

/-- The machine after reset, at the parameters' defaults of R6. -/
def State.reset : State := State.powerOn Config.default

end Sys2Proof.Machine
end

