-- ==== Sys2Proof/Machine/Flags.lean ====
section
/-! DEFINITION. The block has no condition flags (10_state.md R24). What stands in their place is the `status`
register: 8 sticky bits, one per cause (R16, 60_exceptions.md R151), and the event-port records they count
(30_encoding.md R73). -/

namespace Sys2Proof.Machine

/-- The code of a cause: the `kind` of its record and the index of its `status` bit (R151). -/
def causeCode : Cause → Nat
  | .noBus => 1
  | .busErr => 2
  | .noInit => 3
  | .badOp => 4
  | .malformed => 5
  | .tooLong => 6

/-- The code of the log event `UNMAPPED` (R151, R158). -/
abbrev unmappedCode : Nat := 7

/-- `status[k] <- 1` (R16: a bit is set when its cause occurs). -/
def setStatus (k : Nat) (status : BitVec 8) : BitVec 8 := status ||| BitVec.ofNat 8 (2 ^ k)

/-- One record on the event port: `kind[3:0]`, `info[15:0]` (R73). -/
structure EventRecord where
  kind : BitVec 4
  info : Word
deriving DecidableEq, Repr

/-- The kind of the record an output event puts on the event port; `none` for bus and timer events (R73). -/
def outputKind : Output → Option Nat
  | .err cause _ => some (causeCode cause)
  | .log _ => some unmappedCode
  | .busWrite _ _ => none
  | .timerArm _ => none
  | .timerCancel => none

/-- The record of an output event (R73): a logged character code in 16-bit two's complement. -/
def outputRecord : Output → Option EventRecord
  | .err cause info => some ⟨BitVec.ofNat 4 (causeCode cause), info⟩
  | .log c => some ⟨BitVec.ofNat 4 unmappedCode, int16Word c⟩
  | .busWrite _ _ => none
  | .timerArm _ => none
  | .timerCancel => none

/-- The level outputs of the status port (R27): `status`, `fatal`, `inited`, `active`. -/
def statusPort (s : State) : BitVec 8 × Bool × Bool × Bool := (s.status, s.fatal, s.inited, s.active)

end Sys2Proof.Machine
end

