-- ==== Sys2Proof/Machine/Operands.lean ====
section
/-! DEFINITION. How each decoded operand becomes the value the semantics use (30_encoding.md R76): out-of-range
operands are normalised, never refused (60_exceptions.md R159). -/

namespace Sys2Proof.Machine

/-- `clamp(0, 15, level)` (42_display_driver.md R106). -/
def clampLevel (level : Int) : BitVec 4 :=
  if level < 0 then 0#4 else if 15 < level then 15#4 else BitVec.ofInt 4 level

/-- `norm_rate(r)`: `r` if 0 ≤ `r` ≤ 3, else 0 (R104). -/
def normRate (rate : Int) : BitVec 2 :=
  if 0 ≤ rate ∧ rate ≤ 3 then BitVec.ofInt 2 rate else 0#2

/-- The character of slot `i`: `text[i]`, or a space beyond the text (41_frame_encoder.md R91). -/
def slotChar (text : List Int) (i : Nat) : Int := text.getD i spaceCode

/-- The flag of slot `i`: `dots[i]`, or false beyond the list (R93). -/
def slotDot (dots : List Bool) (i : Nat) : Bool := dots.getD i false

/-- The text buffer of a session: each character with its flag, missing flags false, surplus flags dropped
(43_scroll_engine.md R131, R132). -/
def textBuffer (text : List Int) (dots : List Bool) : List (Int × Bool) :=
  text.zipIdx.map fun (c, j) => (c, dots.getD j false)

/-- The opcode byte as the `info` of a record, zero-extended (R73). -/
def opcodeInfo (op : Byte) : Word := op.setWidth 16

/-- How long one blink period lasts, in tenths of a second, for a blink code; `none` is off, steady (R117, D8). The
device blinks, not the block, so no operation reads it. -/
def blinkPeriod (rate : BitVec 2) : Option Nat :=
  if rate = 0#2 then none else if rate = 1#2 then some 5 else if rate = 2#2 then some 10 else some 20

end Sys2Proof.Machine
end

