-- ==== Sys2Proof/Machine/Serializer.lean ====
section
/-! DEFINITION. The byte-level serializer (42_display_driver.md R113): a transaction is put on the bus port one byte
at a time, from `S_CMD` or `S_ADDR` back to `S_IDLE`, and nothing comes between (R114). -/

namespace Sys2Proof.Machine

/-- Slot `i` of a latched frame. -/
def slotOf (f : Frame) (i : Nat) : Word :=
  if i = 0 then f.s0 else if i = 1 then f.s1 else if i = 2 then f.s2 else f.s3

/-- The byte driven in `S_DATA`: `s[bidx/2][7:0]` at an even `bidx`, `s[(bidx-1)/2][15:8]` at an odd one (R113). -/
def dataByte (f : Frame) (bidx : Fin 8) : Byte :=
  if bidx.val % 2 = 0 then loByte (slotOf f (bidx.val / 2)) else hiByte (slotOf f ((bidx.val - 1) / 2))

/-- The byte a serializer state drives, with its marks (R113's columns "byte driven" and "marks"). -/
def serDrive : Serializer → Option BusByte
  | .idle => none
  | .cmd b => some ⟨b, true, true⟩
  | .addr _ => some ⟨startAddr, true, false⟩
  | .data f bidx => some ⟨dataByte f bidx, false, decide (bidx = 7)⟩

/-- The next serializer state (R113's column "next"). -/
def serNext : Serializer → Serializer
  | .idle => .idle
  | .cmd _ => .idle
  | .addr f => .data f 0
  | .data f bidx => if bidx.val < 7 then .data f (bidx + 1) else .idle

/-- The bytes driven from a state until `S_IDLE`, and the state reached, within `n` byte times. -/
def serRun : Nat → Serializer → List BusByte × Serializer
  | 0, x => ([], x)
  | n + 1, x =>
    match serDrive x with
    | none => ([], x)
    | some b => (b :: (serRun n (serNext x)).1, (serRun n (serNext x)).2)

/-- More byte times than any transaction takes: a frame takes 9 (R67). -/
abbrev serFuel : Nat := 10

/-- The state a transaction enters from `S_IDLE`: `S_CMD` for a configuration byte, `S_ADDR` for a frame (R113). -/
def wireStart (c : Config) : Wire → Serializer
  | .osc => .cmd c.kOscOn
  | .blink rate => .cmd (blinkByte c rate)
  | .bright level => .cmd (brightByte c level)
  | .frame f => .addr f

/-- The bytes of a transaction as the serializer drives them. -/
def wireBytes (c : Config) (w : Wire) : List Byte := (serRun serFuel (wireStart c w)).1.map BusByte.byte

end Sys2Proof.Machine
end

