-- ==== Sys2Proof/Machine/Ops.lean ====
section
/-! DEFINITION. The named operations every rule is written over: outputs and faults (60_exceptions.md R160), the
memories (20_memory.md), the bus transaction (R38), the two send steps (42_display_driver.md R107, R112), the end of a
session (R111) and the admission of a command (R101). -/

namespace Sys2Proof.Machine

/-- What a meaning answers. -/
abbrev Result := Host.Outcome State Fault Refusal

/-! ### Outputs and faults -/

/-- `emit E` (R8): append to the output trace. -/
def emit (e : Output) (s : State) : State := { s with trace := s.trace ++ [e] }

/-- Emit `Err(cause, info)` and set its sticky bit (R151, R160 items 1 and 2; R153 for `E_BUSERR`). -/
def report (cause : Cause) (info : Word) (s : State) : State :=
  { s with status := setStatus (causeCode cause) s.status, trace := s.trace ++ [.err cause info] }

/-- `raise Cause(info)`, the fault entry of R160: the record, the sticky bit, and nothing else. The command ends
there because its rule stands in the other branch of the test that raises. No state is saved, no mode changes and
control goes nowhere; there is no return operation (R162). -/
def raise (cause : Cause) (info : Word) (s : State) : State := report cause info s

/-- Emit `Log(UNMAPPED, c)` and set `status[7]` (R94, R158). -/
def logUnmapped (c : Int) (s : State) : State :=
  { s with status := setStatus unmappedCode s.status, trace := s.trace ++ [.log c] }

/-! ### Memories -/

/-- `MemRead(ROM, i)`: a whole word of the glyph table (R31). -/
def romRead (c : Config) (i : Fin 128) : Word := c.rom[i]

/-- The byte at an address; `none` where none has been written. -/
def memRead (m : Memory) (a : Nat) : Option Byte :=
  match m with
  | [] => none
  | (x, v) :: rest => if x = a then some v else memRead rest a

/-- Write one byte, keeping the addresses in rising order. -/
def memWrite (m : Memory) (a : Nat) (b : Byte) : Memory :=
  match m with
  | [] => [(a, b)]
  | (x, v) :: rest =>
    if a < x then (a, b) :: (x, v) :: rest
    else if a = x then (a, b) :: rest
    else (x, v) :: memWrite rest a b

/-- Write bytes at consecutive addresses from `a` on. PRESUMED: that the device steps its address after each data
byte is general knowledge (R33, 93 G5; log entry 6). -/
def memStore (m : Memory) (a : Nat) (bytes : List Byte) : Memory :=
  match bytes with
  | [] => m
  | b :: rest => memStore (memWrite m a b) (a + 1) rest

/-- The canonical form: addresses strictly rising. -/
def Memory.wf (m : Memory) : Bool :=
  match m with
  | [] => true
  | [_] => true
  | (x, _) :: (y, v) :: rest => decide (x < y) && Memory.wf ((y, v) :: rest)

/-- The device registers after a transaction: a configuration byte replaces its register (R167), a frame's data
bytes go to the addresses from its start address on (R33). -/
def deviceTake (w : Wire) (bytes : List Byte) (d : Device) : Device :=
  match w, bytes with
  | .osc, b :: _ => { d with osc := some b }
  | .blink _, b :: _ => { d with blink := some b }
  | .bright _, b :: _ => { d with bright := some b }
  | .frame _, start :: data => { d with ram := memStore d.ram start.toNat data }
  | _, [] => d

/-! ### The bus -/

/-- The bus's answer to the next transaction: the one supplied, or a free value (R44, 93 U5). -/
def nextAnswer (s : State) : BusAnswer :=
  match s.answers with
  | a :: _ => a
  | [] => Config.busFree s.busSeq

/-- Consume the bus's answer (R44): on `fail(e)`, `Err(E_BUSERR, e)` and `status[2]`, and go on as if `ok`
(R115, R153). -/
def takeAnswer (s : State) : State :=
  match nextAnswer s with
  | .ok => { s with answers := s.answers.tail, busSeq := s.busSeq + 1 }
  | .fail e => report .busErr e { s with answers := s.answers.tail, busSeq := s.busSeq + 1 }

/-- `BusWrite(DEV_ADDR, bytes)` (R38): the serializer drives the transaction (R113), it joins the trace, and the
bus's answer is consumed. It changes no register of the block's bookkeeping by itself. -/
def busWrite (w : Wire) (s : State) : State :=
  takeAnswer
    { s with
      ser := (serRun serFuel (wireStart s.cfg w)).2
      device := deviceTake w (wireBytes s.cfg w) s.device
      trace := s.trace ++ [.busWrite s.cfg.devAddr (wireBytes s.cfg w)] }

/-- A wire transaction by itself: in the fatal state "no transaction is ever sent" (R152). -/
def transact (w : Wire) (s : State) : State := if s.fatal then s else busWrite w s

/-- `send_frame(s)` (R107): one transaction, then `F` becomes `some s`. -/
def sendFrame (f : Frame) (s : State) : State := { busWrite (.frame f) s with frame := some f }

/-- `send_cfg(b)` (R112) for the oscillator byte, then `inited <- 1` (R102). -/
def sendOsc (s : State) : State := { busWrite .osc s with inited := true }

/-- `send_cfg(b)` (R112) for the blink byte, then `blink <- some rt` (R102, R103). -/
def sendBlink (rate : BitVec 2) (s : State) : State := { busWrite (.blink rate) s with blink := some rate }

/-- `send_cfg(b)` (R112) for the brightness byte, then `bright <- some lv` (R102, R105). -/
def sendBright (level : BitVec 4) (s : State) : State := { busWrite (.bright level) s with bright := some level }

/-! ### Sessions and admission -/

/-- `cancel_session()` (R111, R133): end the session if there is one, else nothing. -/
def cancelSession (s : State) : State :=
  match s.session with
  | some _ => emit .timerCancel { s with session := none }
  | none => s

/-- R101's tests before the rule of a decoded command other than `INIT`: `E_NOBUS`, then `E_NOINIT`. -/
def whenAdmitted (op : Byte) (s : State) (rule : State → State) : State :=
  if s.fatal then raise .noBus (opcodeInfo op) s
  else if s.inited then rule s
  else raise .noInit (opcodeInfo op) s

/-- R101's tests before the rule of `INIT`, and before the report of an ill-formed packet: `E_NOBUS` only. -/
def whenAlive (op : Byte) (s : State) (rule : State → State) : State :=
  if s.fatal then raise .noBus (opcodeInfo op) s else rule s

/-- What a packet of a known opcode with a wrong length or reserved bits does (R156, R161). -/
def rejectPacket (op : Byte) (s : State) : State :=
  whenAlive op s (raise .malformed (opcodeInfo op))

end Sys2Proof.Machine
end

