-- ==== Sys2Proof/Machine/GlyphTable.lean ====
section
/-! DEFINITION. The Glyph Table (40_glyph_lookup.md): `lookup` and the lookup port. -/

namespace Sys2Proof.Machine

/-- Whether a code is outside 0..127 (R85). -/
def isUnmapped (c : Int) : Bool := decide (c < 0) || decide (127 < c)

/-- The table index of a code: the code itself in 0..127, else 127 (R80). -/
def glyphIndex (c : Int) : Fin 128 :=
  if h : 0 ≤ c ∧ c ≤ 127 then ⟨c.toNat, by omega⟩ else fallbackIndex

/-- `lookup(c)` (R80): the mask and the `unmapped` bit. -/
def lookup (cfg : Config) (c : Int) : Word × Bool := (romRead cfg (glyphIndex c), isUnmapped c)

/-- The lookup port's outputs for the input `lk_code`, in every state of the block (R86). -/
def lookupPort (cfg : Config) (lkCode : Word) : Word × Bool := lookup cfg lkCode.toInt

/-- `lookup` run by itself: the code is presented on the lookup port and the port drives the result; no register is
written and nothing is logged (R80, R86). -/
def execLookupGlyph (c : Int) (s : State) : Result :=
  .next { s with lk := { code := c, mask := (lookup s.cfg c).1, unmapped := (lookup s.cfg c).2 } }

end Sys2Proof.Machine
end

