-- ==== Sys2Proof/Machine/FrameEncoder.lean ====
section
/-! DEFINITION. The Frame Encoder (41_frame_encoder.md): `encode` with its log events, and `serialize`. -/

namespace Sys2Proof.Machine

/-- One slot value (R92): the glyph's word, with the decimal-point bit OR'd in where the flag is set. -/
def slotValue (cfg : Config) (ch : Int) (dot : Bool) : Word :=
  if dot then (lookup cfg ch).1 ||| kDp else (lookup cfg ch).1

/-- The frame `encode(text, dots)` returns (R90 to R93). -/
def encodeFrame (cfg : Config) (text : List Int) (dots : List Bool) : Frame where
  s0 := slotValue cfg (slotChar text 0) (slotDot dots 0)
  s1 := slotValue cfg (slotChar text 1) (slotDot dots 1)
  s2 := slotValue cfg (slotChar text 2) (slotDot dots 2)
  s3 := slotValue cfg (slotChar text 3) (slotDot dots 3)

/-- The log event of one slot, where its character is out of range (R90, R94). -/
def logSlot (ch : Int) (s : State) : State := if isUnmapped ch then logUnmapped ch s else s

/-- The log events of `encode`, in slot order 0 to 3 (R94). -/
def encodeLogs (text : List Int) (s : State) : State :=
  logSlot (slotChar text 3) (logSlot (slotChar text 2) (logSlot (slotChar text 1) (logSlot (slotChar text 0) s)))

/-- `serialize(s)` (R95): the start address, then for each slot its low byte and its high byte. -/
def serialize (f : Frame) : List Byte :=
  [startAddr, loByte f.s0, hiByte f.s0, loByte f.s1, hiByte f.s1, loByte f.s2, hiByte f.s2, loByte f.s3, hiByte f.s3]

/-- A frame encoded and sent: `s = encode(text, dots)`, then `send_frame(s)` (R109, R134). -/
def sendText (text : List Int) (dots : List Bool) (s : State) : State :=
  sendFrame (encodeFrame s.cfg text dots) (encodeLogs text s)

/-- `encode` run by itself (R90): its log events and `status[7]`; the frame is left in the model's own `encOut`. -/
def execEncodeText (text : List Int) (dots : List Bool) (s : State) : Result :=
  .next { encodeLogs text s with encOut := encodeFrame s.cfg text dots }

/-- `serialize` run by itself (R95): no register is written; the bytes are left in the model's own `serOut`. -/
def execSerializeFrame (f : Frame) (s : State) : Result := .next { s with serOut := serialize f }

end Sys2Proof.Machine
end

