-- ==== Sys2Proof/Machine/Driver.lean ====
section
/-! DEFINITION. The Display Driver's commands (42_display_driver.md) and the two packets that are no command
(60_exceptions.md R155, R156). -/

namespace Sys2Proof.Machine

/-- `INIT level, rate` (R102): three transactions, oscillator, blink, brightness, each followed by its bookkeeping. -/
def initRule (level rate : Int) (s : State) : State :=
  sendBright (clampLevel level) (sendBlink (normRate rate) (sendOsc s))

/-- `INIT` with its admission: never `E_NOINIT` (R101, R102). -/
def execInit (level rate : Int) (s : State) : Result := .next (whenAlive 0x01#8 s (initRule level rate))

/-- `SETBLINK rate` (R103): one transaction, always. -/
def execSetblink (rate : Int) (s : State) : Result := .next (whenAdmitted 0x02#8 s (sendBlink (normRate rate)))

/-- `SETBRIGHT level` (R105): nothing where `BRIGHT_SKIP` and the tracked level is the clamped request. -/
def setbrightRule (level : Int) (s : State) : State :=
  if s.cfg.brightSkip ∧ s.bright = some (clampLevel level) then s else sendBright (clampLevel level) s

/-- `SETBRIGHT` with its admission (R101, R105). -/
def execSetbright (level : Int) (s : State) : Result := .next (whenAdmitted 0x03#8 s (setbrightRule level))

/-- `WRFRAME s` (R108): cancel the session, send the frame. -/
def execWrframe (f : Frame) (s : State) : Result := .next (whenAdmitted 0x04#8 s fun t => sendFrame f (cancelSession t))

/-- `WRTEXT text, dots` (R109): cancel the session, encode (log events), send the frame. -/
def execWrtext (text : List Int) (dots : List Bool) (s : State) : Result :=
  .next (whenAdmitted 0x05#8 s fun t => sendText text dots (cancelSession t))

/-- `CLEAR` (R110): cancel the session, send the all-zero frame. -/
def execClear (s : State) : Result := .next (whenAdmitted 0x06#8 s fun t => sendFrame blankFrame (cancelSession t))

/-- A packet with a reserved opcode (R65, R155): `E_BADOP`, after `E_NOBUS` (R161). -/
def execReservedOpcode (op : Byte) (s : State) : Result :=
  .next (whenAlive op s (raise .badOp (opcodeInfo op)))

/-- The empty packet (R64, R156): `E_MALFORMED` with info 0, after `E_NOBUS` (R161). -/
def execEmptyPacket (s : State) : Result := .next (whenAlive 0x00#8 s (raise .malformed 0x0000#16))

end Sys2Proof.Machine
end

