-- ==== Sys2Proof/Machine/Reset.lean ====
section
/-! DEFINITION. The reset event (70_reset_and_hazards.md R180 to R182). -/

namespace Sys2Proof.Machine

/-- The state after the reset event: R181's registers; a new output trace (R180) that opens with the outputs of the
reset itself, `TimerCancel` if a session was active, then `Err(E_NOBUS, 0)` if no bus is present (R182; log entry 5).
The device keeps what it was last sent (R182); the input still to come, the bus and the ports are outside the block
and stay as they are. -/
def resetRule (s : State) : State :=
  { s with
    inited := false
    blink := none
    bright := none
    frame := none
    session := none
    fatal := !s.cfg.busPresent
    status := if s.cfg.busPresent then 0x00#8 else 0x02#8
    ser := .idle
    trace := (if s.active then [.timerCancel] else [])
      ++ (if s.cfg.busPresent then [] else [.err .noBus 0x0000#16]) }

/-- `RESET` (R180). -/
def execReset (s : State) : Result := .next (resetRule s)

end Sys2Proof.Machine
end

