-- ==== Sys2Proof/Machine/Scroll.lean ====
section
/-! DEFINITION. The Scroll Engine (43_scroll_engine.md): `SCROLL`, `SCRSTOP` and `TICK`. -/

namespace Sys2Proof.Machine

/-- `window(p)` (R135): the character and flag at position `p` of the padded text. -/
def window (x : Session) (p : Nat) : Int × Bool :=
  if p < width then (spaceCode, false)
  else if h : p - width < x.tb.length then x.tb[p - width]
  else (spaceCode, false)

/-- The four characters shown at step `k` (R134, R135). -/
def windowText (x : Session) (k : Nat) : List Int :=
  [(window x k).1, (window x (k + 1)).1, (window x (k + 2)).1, (window x (k + 3)).1]

/-- The four flags shown at step `k` (R134, R135). -/
def windowDots (x : Session) (k : Nat) : List Bool :=
  [(window x k).2, (window x (k + 1)).2, (window x (k + 2)).2, (window x (k + 3)).2]

/-- A new session (R131): its text and flags, `step` = 0, `total` = `L` + 4. -/
def newSession (stop : Bool) (text : List Int) (dots : List Bool) (ivl : Word) : Session where
  tb := textBuffer text dots
  ivl := ivl
  stop := stop
  step := 0
  total := text.length + width

/-- `SCROLL` (R131): `E_TOOLONG` first, with nothing changed (R157); else the old session ends, the new one begins,
and the timer is armed. Nothing is sent on the bus (R138). -/
def scrollRule (stop : Bool) (text : List Int) (dots : List Bool) (ivl : Word) (s : State) : State :=
  if s.cfg.textMax < text.length then raise .tooLong (BitVec.ofNat 16 text.length) s
  else emit (.timerArm ivl) { cancelSession s with session := some (newSession stop text dots ivl) }

/-- `SCROLL` with its admission (R101, R131). -/
def execScroll (stop : Bool) (text : List Int) (dots : List Bool) (ivl : Word) (s : State) : Result :=
  .next (whenAdmitted 0x07#8 s (scrollRule stop text dots ivl))

/-- `SCRSTOP` (R133): `cancel_session()`. -/
def execScrstop (s : State) : Result := .next (whenAdmitted 0x08#8 s cancelSession)

/-- A tick that sends (R134, third branch): the frame of step `step`, then `step + 1`. -/
def tickSend (x : Session) (s : State) : State :=
  { sendText (windowText x x.step) (windowDots x x.step) s with session := some { x with step := x.step + 1 } }

/-- A tick of a session (R134): past the last step it ends a stopping session (R137) or wraps a looping one and sends
nothing (R136). -/
def tickSession (x : Session) (s : State) : State :=
  if x.total < x.step then
    if x.stop then emit .timerCancel { s with session := none }
    else { s with session := some { x with step := 0 } }
  else tickSend x s

/-- `TICK` (R134): nothing in the fatal state or without a session (R140). -/
def tickRule (s : State) : State :=
  if s.fatal then s
  else
    match s.session with
    | none => s
    | some x => tickSession x s

/-- `TICK` (R134): "A tick is never refused with an error". -/
def execTick (s : State) : Result := .next (tickRule s)

end Sys2Proof.Machine
end

