-- ==== Sys2Proof/Machine/Wire.lean ====
section
/-! DEFINITION. The wire transactions by themselves (30_encoding.md R67 to R71): each is one `BusWrite` (20_memory.md
R38), which changes no bookkeeping register; the operation that calls it does (log entry 11). -/

namespace Sys2Proof.Machine

/-- The transaction `[K_OSC_ON]` (R68). -/
def execWOsc (s : State) : Result := .next (transact .osc s)

/-- The transaction `[K_BLINK_CMD | (rate << 1) | K_DISPLAY_ON]` (R69). -/
def execWBlink (rate : BitVec 2) (s : State) : Result := .next (transact (.blink rate) s)

/-- The transaction `[K_BRIGHT_CMD | level]` (R70). -/
def execWBright (level : BitVec 4) (s : State) : Result := .next (transact (.bright level) s)

/-- The frame transaction (R71). -/
def execWFrame (f : Frame) (s : State) : Result := .next (transact (.frame f) s)

end Sys2Proof.Machine
end

