-- ==== Sys2Proof/Machine/Dispatch.lean ====
section
/-! DEFINITION. One arm per operation of the opcode table (30_encoding.md R50). -/

namespace Sys2Proof.Machine

def exec (i : Instr) (s : State) : Host.Outcome State Fault Refusal :=
  match i with
  | .init level rate => Sys2Proof.Machine.execInit level rate s
  | .setblink rate => Sys2Proof.Machine.execSetblink rate s
  | .setbright level => Sys2Proof.Machine.execSetbright level s
  | .wrframe slots => Sys2Proof.Machine.execWrframe slots s
  | .wrtext text dots => Sys2Proof.Machine.execWrtext text dots s
  | .clear => Sys2Proof.Machine.execClear s
  | .scroll stop text dots ivl => Sys2Proof.Machine.execScroll stop text dots ivl s
  | .scrstop => Sys2Proof.Machine.execScrstop s
  | .reservedOpcode op => Sys2Proof.Machine.execReservedOpcode op s
  | .emptyPacket => Sys2Proof.Machine.execEmptyPacket s
  | .tick => Sys2Proof.Machine.execTick s
  | .reset => Sys2Proof.Machine.execReset s
  | .wOsc => Sys2Proof.Machine.execWOsc s
  | .wBlink rate => Sys2Proof.Machine.execWBlink rate s
  | .wBright level => Sys2Proof.Machine.execWBright level s
  | .wFrame slots => Sys2Proof.Machine.execWFrame slots s
  | .lookupGlyph c => Sys2Proof.Machine.execLookupGlyph c s
  | .encodeText text dots => Sys2Proof.Machine.execEncodeText text dots s
  | .serializeFrame slots => Sys2Proof.Machine.execSerializeFrame slots s

end Sys2Proof.Machine
end

