-- ==== Sys2Proof/Machine/Fetch.lean ====
section
/-! DEFINITION. From the next input event to the operation it stands for (10_state.md R26, 42_display_driver.md
R101): the block fetches nothing (R21), it takes the events in the order they are presented. -/

namespace Sys2Proof.Machine

/-- The table row of a unit operation; the lookup port reads its 16-bit code with `sext_16` (R86). -/
def unitInstr : UnitOp → Instr
  | .wOsc => .wOsc
  | .wBlink rate => .wBlink rate
  | .wBright level => .wBright level
  | .wFrame f => .wFrame f
  | .lookup code => .lookupGlyph code.toInt
  | .encode text dots => .encodeText text dots
  | .serialize f => .serializeFrame f

/-- What an input event asks for: a packet is decoded (R64), the events without encoding stand for themselves (R63). -/
def fetch : Event → Decoded
  | .cmd p => decode p
  | .tick => .instr .tick
  | .reset => .instr .reset
  | .unit u => .instr (unitInstr u)

/-- The event that presents the operation of table number `w`: a wire row is run by itself, everything else is the
packet of that number (log entry 10). -/
def tableEvent (nbits w : Nat) : Event :=
  match decodeTableWord nbits w with
  | some .wOsc => .unit .wOsc
  | some (.wBlink rate) => .unit (.wBlink rate)
  | some (.wBright level) => .unit (.wBright level)
  | some (.wFrame f) => .unit (.wFrame f)
  | _ => .cmd (tableBytes nbits w)

/-- An input event of R26, that is, not a unit operation of the model's own. -/
def specEvent : Event → Bool
  | .cmd _ => true
  | .tick => true
  | .reset => true
  | .unit _ => false

end Sys2Proof.Machine
end

