-- ==== Sys2Proof/Machine/Step.lean ====
section
/-! DEFINITION. One atomic step per input event (10_state.md R26): the oldest pending event is taken and run to its
end. With no event pending "the block is always idle and waiting" (44_common_laws.md R203): the state stays. -/

namespace Sys2Proof.Machine

def step (s : State) : Host.Outcome State Fault Refusal :=
  match s.input with
  | [] => .next s
  | e :: rest =>
    match fetch e with
    | .instr i => exec i { s with input := rest }
    | .malformed op => .next (rejectPacket op { s with input := rest })

/-- `s` with the operation of table number `w` as the next input event; nothing else changes. -/
def State.withFetchWord (s : State) (nbits w : Nat) : State := { s with input := tableEvent nbits w :: s.input }

end Sys2Proof.Machine
end

