-- ==== Sys2Proof/Safety.lean ====
section
/-! DEFINITION. The vocabulary claims are stated in: what one transaction leaves, what an output trace says, the
invariants of 10_state.md R29 and those that tie the registers to the trace, and repeated ticks. -/

namespace Sys2Proof.Machine

/-! ### One transaction -/

/-- The records a bus answer puts on the event port: `Err(E_BUSERR, e)` on `fail(e)` (60_exceptions.md R153). -/
def answerRecords : BusAnswer → List Output
  | .ok => []
  | .fail e => [.err .busErr e]

/-- The status register after a bus answer: bit 2 set on `fail(e)` (R153). -/
def answerStatus (a : BusAnswer) (status : BitVec 8) : BitVec 8 :=
  match a with
  | .ok => status
  | .fail _ => status ||| 0x04#8

/-- What one transaction with the bytes `bytes` leaves, where `dev` says what it writes in the device: the
transaction and then the answer's record on the trace, the answer consumed, the serializer idle. -/
def sent (bytes : List Byte) (dev : Device → Device) (s : State) : State :=
  { s with
    ser := .idle
    device := dev s.device
    answers := s.answers.tail
    busSeq := s.busSeq + 1
    status := answerStatus (nextAnswer s) s.status
    trace := s.trace ++ .busWrite s.cfg.devAddr bytes :: answerRecords (nextAnswer s) }

/-- The transaction of a frame: its register buffer (30_encoding.md R71), its data bytes at the addresses from the
start address on (20_memory.md R33). -/
def sentFrame (f : Frame) (s : State) : State :=
  sent (startAddr :: frameBytes f) (fun d => { d with ram := memStore d.ram startAddr.toNat (frameBytes f) }) s

/-- What a refused command leaves: its record and its sticky bit (R160). -/
def refused (cause : Cause) (info : Word) (s : State) : State :=
  { s with status := s.status ||| BitVec.ofNat 8 (2 ^ causeCode cause), trace := s.trace ++ [.err cause info] }

/-- The session ended, with `TimerCancel` on the trace if there was one (R111). -/
def sessionEnded (s : State) : State :=
  { s with
    session := none
    trace := s.trace ++ (if s.active then [.timerCancel] else []) }

/-- The characters of the four slots of `encode` that are out of range, in slot order (41_frame_encoder.md R94). -/
def unmappedSlots (text : List Int) : List Int :=
  [slotChar text 0, slotChar text 1, slotChar text 2, slotChar text 3].filter isUnmapped

/-- What the log events of `encode` leave (R94): one event for each such slot, and `status[7]` if there is any. -/
def logged (text : List Int) (s : State) : State :=
  { s with
    status := if unmappedSlots text = [] then s.status else s.status ||| 0x80#8
    trace := s.trace ++ (unmappedSlots text).map .log }

/-- The frame an operation sends at a state, if it sends one: a content command that is admitted (R107 to R111), a
tick that sends (R134), a frame transaction outside the fatal state (R71). Its data bytes are stored at the device
addresses from the start address on (20_memory.md R33). -/
def frameSent (i : Instr) (s : State) : Option Frame :=
  match i with
  | .wrframe f => if s.fatal = false ∧ s.inited = true then some f else none
  | .wrtext text dots => if s.fatal = false ∧ s.inited = true then some (encodeFrame s.cfg text dots) else none
  | .clear => if s.fatal = false ∧ s.inited = true then some blankFrame else none
  | .wFrame f => if s.fatal = false then some f else none
  | .tick =>
    match s.session with
    | some x =>
      if s.fatal = false ∧ x.step ≤ x.total then
        some (encodeFrame s.cfg (windowText x x.step) (windowDots x x.step))
      else none
    | none => none
  | _ => none

/-! ### Reading an output trace -/

/-- Whether an output event is a bus transaction. -/
def isBusWrite : Output → Bool
  | .busWrite _ _ => true
  | _ => false

/-- The bytes of the bus transactions of a trace, oldest first. -/
def busBytes (t : List Output) : List (List Byte) :=
  t.filterMap fun e =>
    match e with
    | .busWrite _ bytes => some bytes
    | _ => none

/-- The register buffer of the last frame transaction of a trace (R67: a frame transaction has 9 bytes). -/
def lastFrame (t : List Output) : Option (List Byte) := ((busBytes t).filter fun b => b.length = 9).getLast?

/-- Whether a `TimerArm` is outstanding: not yet followed by a `TimerCancel` (43_scroll_engine.md R144). -/
def timerArmed (t : List Output) : Bool :=
  t.foldl (fun armed e =>
    match e with
    | .timerArm _ => true
    | .timerCancel => false
    | _ => armed) false

/-- Whether a trace holds a record of kind `k` (30_encoding.md R73). -/
def hasKind (k : Nat) (t : List Output) : Bool := t.any fun e => decide (outputKind e = some k)

/-- The shape of an output event on the bus (R67): to `DEV_ADDR`, one byte, or nine of which the first is the start
address. -/
def wireShape (c : Config) : Output → Bool
  | .busWrite a bytes =>
    decide (a = c.devAddr)
      && (decide (bytes.length = 1) || (decide (bytes.length = 9) && decide (bytes.head? = some startAddr)))
  | _ => true

/-! ### Invariants -/

/-- 10_state.md R29, items 1 to 5, with the range of the text buffer's codes (R10). -/
structure RegisterInv (s : State) : Prop where
  active_inited : s.active = true → s.inited = true ∧ s.fatal = false
  session_bounds : ∀ x, s.session = some x →
    x.total = x.len + 4 ∧ x.step ≤ x.total + 1 ∧ x.len ≤ s.cfg.textMax ∧ ∀ e ∈ x.tb, fitsInt16 e.1 = true
  inited_config : s.inited = true → s.blink ≠ none ∧ s.bright ≠ none
  frame_inited : s.frame ≠ none → s.inited = true
  fatal_dead : s.fatal = true →
    s.inited = false ∧ s.active = false ∧ s.blink = none ∧ s.bright = none ∧ s.frame = none
      ∧ ∀ e ∈ s.trace, isBusWrite e = false

/-- `status` bit `k` is set exactly when the trace holds a record of kind `k` (R73, 60_exceptions.md R151). -/
def StatusMirrorsTrace (s : State) : Prop := ∀ k < 8, s.status.getLsbD k = hasKind k s.trace

/-- One arming is outstanding exactly while a session is active (R144). -/
def TimerMirrorsSession (s : State) : Prop := timerArmed s.trace = s.active

/-- The pins of the lookup port carry `lookup` of the code presented (40_glyph_lookup.md R86). -/
def LookupPinsHold (s : State) : Prop := s.lk.mask = (lookup s.cfg s.lk.code).1 ∧ s.lk.unmapped = (lookup s.cfg s.lk.code).2

/-- The device's display memory is in canonical form and lists only the addresses 0x00..0x07 (20_memory.md R30). -/
def DeviceMemoryCanonical (s : State) : Prop := Memory.wf s.device.ram = true ∧ ∀ e ∈ s.device.ram, e.1 < 8

/-- Every event still to come is one of 10_state.md R26's. -/
def SpecInput (s : State) : Prop := ∀ e ∈ s.input, specEvent e = true

/-- The bookkeeping registers say what was last sent to the device (R9 "bookkeeping", R13, R14, R11). -/
structure DeviceMirrorsBookkeeping (s : State) : Prop where
  input : SpecInput s
  osc : s.inited = true → s.device.osc = some s.cfg.kOscOn
  blink : ∀ rate, s.blink = some rate → s.device.blink = some (blinkByte s.cfg rate)
  bright : ∀ level, s.bright = some level → s.device.bright = some (brightByte s.cfg level)
  ram : ∀ f, s.frame = some f → ∀ k < 8, memRead s.device.ram k = (frameBytes f)[k]?

/-- `F` is the frame of the last frame transaction since the reset (R11). -/
def FrameMirrorsTrace (s : State) : Prop := SpecInput s ∧ lastFrame s.trace = s.frame.map serialize

/-- Every bus transaction of the trace has the shape of R67. -/
def TraceHasWireShape (s : State) : Prop := ∀ e ∈ s.trace, wireShape s.cfg e = true

/-! ### Two runs that differ in the bus's answers -/

/-- A state with what reports the bus's answers taken out: the answers, the `E_BUSERR` records and `status[2]`
(90_conflicts.md C3). -/
def hideAnswers (s : State) : State :=
  { s with
    answers := []
    status := s.status &&& 0xFB#8
    trace := s.trace.filter fun e => decide (outputKind e ≠ some 2) }

/-- The outcome of a step with what reports the bus's answers taken out. -/
def hideOutcome : Result → Result
  | .next t => .next (hideAnswers t)
  | .fault r => .fault r
  | .refused r => .refused r

/-! ### Repeated ticks -/

/-- `n` ticks in a row. -/
def ticks : Nat → State → Result
  | 0, s => .next s
  | n + 1, s =>
    match exec .tick s with
    | .next t => ticks n t
    | o => o

end Sys2Proof.Machine
end

