-- ==== Sys2Proof/Certificates/Slice0/Obligations.lean ====
section
/-! DEFINITION. The statements for the provers, each from numbered rules of spec/. A statement about a next state gives
that state as an update of the state before, so it says the result and the frame together: every field not named is
unchanged. What `sent` and `sentFrame` say of `device`, `answers`, `busSeq` and `ser` is the model's form of the bus, the
device and the serializer: log entries 4, 6 and 14. -/

open Sys2Proof Sys2Proof.Machine

/-! ### Encoding -/

/-- R55 to R62 and R64: decoding the packet of a well-formed operation gives the operation back, with every operand at
every value its field admits. -/
def Obligations.DecodeEncodeRoundTrip : Prop :=
  ∀ (i : Instr) (p : List Byte), i.wellFormed = true → encode i = some p → decode p = .instr i

/-- R64: what the decoder answers is well formed, so every operand is in the range of its field. -/
def Obligations.DecodeIsWellFormed : Prop :=
  ∀ (p : List Byte) (i : Instr), decode p = .instr i → i.wellFormed = true

/-- R68 to R71: a transaction's bytes say which transaction it is, for all parameters that keep R6's constraints and
give the three configuration bytes different command bits. -/
def Obligations.WireBytesIdentifyTransaction : Prop :=
  ∀ (c : Config) (i : Instr) (bytes : List Byte), c.wf = true →
    c.kOscOn &&& 0xF9#8 ≠ c.kBlinkCmd ||| c.kDisplayOn → c.kOscOn &&& 0xF0#8 ≠ c.kBrightCmd →
    (c.kBlinkCmd ||| c.kDisplayOn) &&& 0xF0#8 ≠ c.kBrightCmd →
    encodeWire c i = some bytes → decodeWire c bytes = some i

/-- Ten words written out from the spec: four packets from the layouts (95_test_vectors.md V30-1, V30-20, V30-21,
V30-18), a reserved and the empty packet, and one transaction of each of the four wire formats (R68 to R71) with the
default constants (log entry 18) decode to what they stand for. -/
def Obligations.SpecWordsDecode : Prop :=
  decode [0x01#8, 0x0F#8, 0x00#8, 0x00#8, 0x00#8] = .instr (.init 15 0) ∧
  decode [0x03#8, 0xFB#8, 0xFF#8] = .instr (.setbright (-5)) ∧
  decode [0x04#8, 0xF7#8, 0x00#8, 0x00#8, 0x40#8, 0x00#8, 0x00#8, 0x01#8, 0x80#8]
    = .instr (.wrframe ⟨0x00F7#16, 0x4000#16, 0x0000#16, 0x8001#16⟩) ∧
  decode [0x07#8, 0x01#8, 0xF4#8, 0x01#8, 0x02#8, 0x00#8, 0x02#8, 0x00#8, 0x48#8, 0x00#8, 0x49#8, 0x00#8, 0x02#8]
    = .instr (.scroll true [72, 73] [false, true] 500#16) ∧
  decode [0x09#8] = .instr (.reservedOpcode 0x09#8) ∧
  decode [] = .instr .emptyPacket ∧
  decodeWire Config.default [0x21#8] = some .wOsc ∧
  decodeWire Config.default [0x85#8] = some (.wBlink 2#2) ∧
  decodeWire Config.default [0xE7#8] = some (.wBright 7#4) ∧
  decodeWire Config.default [0x00#8, 0xF7#8, 0x40#8, 0x00#8, 0x00#8, 0x34#8, 0x12#8, 0x01#8, 0x80#8]
    = some (.wFrame ⟨0x40F7#16, 0x0000#16, 0x1234#16, 0x8001#16⟩)

/-- R64: for a known opcode, the packet decodes exactly when its length is the one its opcode and counts require and, in
`SCROLL`, the reserved flag bits are 0; otherwise it is `Bad(E_MALFORMED, op)`. -/
def Obligations.LengthDecidesPacket : Prop :=
  ∀ (op : Byte) (rest : List Byte), 0x01#8 ≤ op → op ≤ 0x08#8 →
    (((op :: rest).length ≠ requiredLength (op :: rest)
        ∨ (op = 0x07#8 ∧ (rest.getD 0 0#8).extractLsb' 1 7 ≠ 0#7)) → decode (op :: rest) = .malformed op) ∧
    ((op :: rest).length = requiredLength (op :: rest) →
      (op = 0x07#8 → (rest.getD 0 0#8).extractLsb' 1 7 = 0#7) →
      ∃ i, decode (op :: rest) = .instr i ∧ opcodeByte i = some op)

/-- R54: `m` flags take `ceil(m / 8)` bytes, none for `m` = 0; flag `j` is bit `j mod 8` of byte `floor(j / 8)`, read
and packed; the bits above flag `m` - 1 are ignored. -/
def Obligations.FlagListsPackLowBitFirst : Prop :=
  (∀ (m : Nat) (p : List Byte), (flags m p).length = m ∧
    ∀ j < m, (flags m p)[j]? = some ((p.getD (j / 8) 0#8).getLsbD (j % 8))) ∧
  (∀ dots : List Bool, (packFlags dots).length = (dots.length + 7) / 8 ∧
    ∀ j < dots.length, ((packFlags dots).getD (j / 8) 0#8).getLsbD (j % 8) = dots.getD j false) ∧
  (∀ (m : Nat) (p q : List Byte),
    (∀ j < m, (p.getD (j / 8) 0#8).getLsbD (j % 8) = (q.getD (j / 8) 0#8).getLsbD (j % 8)) →
      flags m p = flags m q) ∧
  packFlags [] = []

/-- R52: the value of a 16-bit operand, signed and unsigned, low byte first, and that every value in range has its
bytes. -/
def Obligations.OperandsAreLowByteFirst : Prop :=
  (∀ lo hi : Byte, (word16 lo hi).toNat = 256 * hi.toNat + lo.toNat ∧
    sext16 lo hi = if 256 * hi.toNat + lo.toNat < 32768 then ((256 * hi.toNat + lo.toNat : Nat) : Int)
      else ((256 * hi.toNat + lo.toNat : Nat) : Int) - 65536) ∧
  (∀ v : Int, -32768 ≤ v → v ≤ 32767 → ∃ lo hi, intBytes v = [lo, hi] ∧ sext16 lo hi = v) ∧
  (∀ l0 l1 r0 r1 : Byte, decode [0x01#8, l0, l1, r0, r1] = .instr (.init (sext16 l0 l1) (sext16 r0 r1)))

/-! ### The Glyph Table -/

/-- R81, R82: in range, the mask is the table word at the code, all 16 bits; out of range, it is the word stored at
index 127, which is the mask of the code 127; in a signed 16-bit field, in range is "`c[15:7]` = 0". -/
def Obligations.LookupIsTableWordOrFallback : Prop :=
  (∀ (cfg : Config) (k : Fin 128), lookup cfg (k.val : Int) = (cfg.rom[k], false)) ∧
  (∀ (cfg : Config) (c : Int), (c < 0 ∨ 127 < c) →
    (lookup cfg c).1 = cfg.rom[127] ∧ (lookup cfg c).1 = (lookup cfg 127).1 ∧ (lookup cfg c).2 = true) ∧
  (∀ w : Word, (0 ≤ w.toInt ∧ w.toInt ≤ 127) ↔ w.extractLsb' 7 9 = 0#9)

/-- R80, R86: presenting a code on the lookup port completes in every state, writes no register and logs nothing; the
port then carries the code's table word (or the word at 127) and whether it is out of range. That the port is a
field set when a code is presented is log entry 7. -/
def Obligations.LookupResult : Prop :=
  ∀ (c : Int) (s : State), ∃ mask unmapped,
    exec (.lookupGlyph c) s = .next { s with lk := { code := c, mask := mask, unmapped := unmapped } } ∧
    (∀ k : Fin 128, c = (k.val : Int) → mask = s.cfg.rom[k] ∧ unmapped = false) ∧
    ((c < 0 ∨ 127 < c) → mask = s.cfg.rom[127] ∧ unmapped = true)

/-! ### The Frame Encoder -/

/-- R91, R93: a text is cut to 4 characters or filled on the right with spaces, a flag list is cut to 4 or filled with
false, before anything else: slot `k` of the encoded frame takes `text[k]` or a space, and `dots[k]` or false;
position `k` of the filled lists is the same; and `WRTEXT` of the filled lists does what `WRTEXT` of the given ones
does, so what is beyond position 3 neither shows nor logs. -/
def Obligations.EncodeNormalisesOperands : Prop :=
  ∀ (text : List Int) (dots : List Bool) (s : State),
    (∀ k < 4, slotOf (encodeFrame s.cfg text dots) k =
      (lookup s.cfg (if h : k < text.length then text[k] else 32)).1
        ||| (if (if h : k < dots.length then dots[k] else false) = true then 0x4000#16 else 0x0000#16)) ∧
    (∀ k < 4,
      (text.take 4 ++ List.replicate (4 - text.length) (32 : Int))[k]?
        = some (if h : k < text.length then text[k] else 32) ∧
      (dots.take 4 ++ List.replicate (4 - dots.length) false)[k]?
        = some (if h : k < dots.length then dots[k] else false)) ∧
    (text.take 4 ++ List.replicate (4 - text.length) (32 : Int)).length = 4 ∧
    (dots.take 4 ++ List.replicate (4 - dots.length) false).length = 4 ∧
    exec (.wrtext text dots) s
      = exec (.wrtext (text.take 4 ++ List.replicate (4 - text.length) 32)
          (dots.take 4 ++ List.replicate (4 - dots.length) false)) s

/-- R92: bit by bit, slot `k` is the table word of its character with bit 14 also set where the flag is true; a flag on
a padded slot gives a lone decimal point. -/
def Obligations.SlotIsGlyphOrDecimalPoint : Prop :=
  (∀ (cfg : Config) (text : List Int) (dots : List Bool), ∀ k < 4, ∀ b < 16,
    (slotOf (encodeFrame cfg text dots) k).getLsbD b
      = ((lookup cfg (text.getD k 32)).1.getLsbD b || (decide (b = 14) && dots.getD k false))) ∧
  (∀ (cfg : Config) (text : List Int) (dots : List Bool), cfg.wf = true → ∀ k < 4, text.length ≤ k →
    dots.getD k false = true → slotOf (encodeFrame cfg text dots) k = 0x4000#16)

/-- R90, R94: `encode` completes in every state; it emits one `Log(UNMAPPED, ch)` per out-of-range slot in slot order,
sets `status[7]` if there is one, and changes no other register; and the text and flags cut or filled to 4 give the
same. `encOut`, where its frame is left, is the model's own (log entry 8). -/
def Obligations.EncodeResult : Prop :=
  ∀ (text : List Int) (dots : List Bool) (s : State),
    exec (.encodeText text dots) s = .next
      { s with
        encOut := encodeFrame s.cfg text dots
        status := if ∀ k < 4, 0 ≤ text.getD k 32 ∧ text.getD k 32 ≤ 127 then s.status else s.status ||| 0x80#8
        trace := s.trace ++ ([text.getD 0 32, text.getD 1 32, text.getD 2 32, text.getD 3 32].filter
          fun c => decide (c < 0 ∨ 127 < c)).map .log } ∧
    exec (.encodeText text dots) s
      = exec (.encodeText (text.take 4 ++ List.replicate (4 - text.length) 32)
          (dots.take 4 ++ List.replicate (4 - dots.length) false)) s

/-- R95: `serialize` completes in every state, changes no register, and gives the start address and then each slot's `v
& 0xFF` and `(v >> 8) & 0xFF`. `serOut`, where they are left, is the model's own (log entry 8). -/
def Obligations.SerializeResult : Prop :=
  ∀ (f : Frame) (s : State),
    exec (.serializeFrame f) s = .next
      { s with
        serOut :=
          0x00#8 :: [f.s0, f.s1, f.s2, f.s3].flatMap fun v =>
            [(v &&& 0x00FF#16).setWidth 8, ((v >>> 8) &&& 0x00FF#16).setWidth 8] }

/-- R96: the frame is recovered from its register buffer: `b[2i+2] << 8 | b[2i+1]` = `s[i]`, and `b[0]` = 0x00. -/
def Obligations.SerializeRoundTrip : Prop :=
  ∀ (f : Frame), (serialize f).getD 0 0xFF#8 = 0x00#8 ∧ (serialize f).length = 9 ∧
    ∀ i < 4, ((serialize f).getD (2 * i + 2) 0#8).setWidth 16 <<< 8
      ||| ((serialize f).getD (2 * i + 1) 0#8).setWidth 16 = slotOf f i

/-! ### The Display Driver -/

/-- R104, R106: a level below 0 gives 0, above 15 gives 15, otherwise the level; a rate outside 0..3 gives 0, not a
clamped value; `rt << 1` occupies bits 2..1. -/
def Obligations.LevelClampsAndRateDefaults : Prop :=
  (∀ level : Int, ((clampLevel level).toNat : Int) = if level < 0 then 0 else if 15 < level then 15 else level) ∧
  (∀ rate : Int, ((normRate rate).toNat : Int) = if 0 ≤ rate ∧ rate ≤ 3 then rate else 0) ∧
  (∀ rt : BitVec 2, (rt.setWidth 8 <<< 1 : Byte) &&& 0xF9#8 = 0#8)

/-- R113, R114: the serializer drives a frame's register buffer, byte by byte, the first byte marked first and the last
marked last, and a configuration byte with both marks, and ends in `S_IDLE`. -/
def Obligations.SerializerDrivesTransaction : Prop :=
  (∀ f : Frame,
    (serRun 10 (.addr f)).1.map BusByte.byte = serialize f ∧
    (serRun 10 (.addr f)).1.map BusByte.first = true :: List.replicate 8 false ∧
    (serRun 10 (.addr f)).1.map BusByte.last = List.replicate 8 false ++ [true] ∧
    (serRun 10 (.addr f)).2 = .idle) ∧
  (∀ b : Byte, serRun 10 (.cmd b) = ([⟨b, true, true⟩], .idle))

/-- R102: `INIT` outside the fatal state sends the oscillator, blink and brightness bytes in this order, each with its
answer, and sets `inited`, `blink` and `bright`; frame and session stay. On the device, the bus and the serializer:
log entries 6, 4, 14. -/
def Obligations.InitResult : Prop :=
  ∀ (level rate : Int) (s : State), s.fatal = false →
    exec (.init level rate) s = .next
      { sent [brightByte s.cfg (clampLevel level)]
          (fun d => { d with bright := some (brightByte s.cfg (clampLevel level)) })
          (sent [blinkByte s.cfg (normRate rate)]
            (fun d => { d with blink := some (blinkByte s.cfg (normRate rate)) })
            (sent [s.cfg.kOscOn] (fun d => { d with osc := some s.cfg.kOscOn }) s)) with
        inited := true
        blink := some (normRate rate)
        bright := some (clampLevel level) }

/-- R103: `SETBLINK`, admitted, sends exactly one blink byte, always, and sets `blink`. On the device, the bus and the
serializer: log entries 6, 4, 14. -/
def Obligations.SetblinkResult : Prop :=
  ∀ (rate : Int) (s : State), s.fatal = false → s.inited = true →
    exec (.setblink rate) s = .next
      { sent [s.cfg.kBlinkCmd ||| ((normRate rate).setWidth 8 <<< 1) ||| s.cfg.kDisplayOn]
          (fun d => { d with
            blink := some (s.cfg.kBlinkCmd ||| ((normRate rate).setWidth 8 <<< 1) ||| s.cfg.kDisplayOn) }) s with
        blink := some (normRate rate) }

/-- R105: `SETBRIGHT`, admitted, does nothing if `BRIGHT_SKIP` and the tracked level is the clamped request; else it
sends one brightness byte and sets `bright`. On the device, the bus and the serializer: log entries 6, 4, 14. -/
def Obligations.SetbrightResult : Prop :=
  ∀ (level : Int) (s : State), s.fatal = false → s.inited = true →
    (s.cfg.brightSkip = true → s.bright = some (clampLevel level) → exec (.setbright level) s = .next s) ∧
    ((s.cfg.brightSkip = false ∨ s.bright ≠ some (clampLevel level)) →
      exec (.setbright level) s = .next
        { sent [s.cfg.kBrightCmd ||| (clampLevel level).setWidth 8]
            (fun d => { d with bright := some (s.cfg.kBrightCmd ||| (clampLevel level).setWidth 8) }) s with
          bright := some (clampLevel level) })

/-- R108, R111: `WRFRAME`, admitted, ends the session, sends the frame and sets `F`. On the device, the bus and the
serializer: log entries 6, 4, 14. -/
def Obligations.WrframeResult : Prop :=
  ∀ (f : Frame) (s : State), s.fatal = false → s.inited = true →
    exec (.wrframe f) s = .next { sentFrame f (sessionEnded s) with frame := some f }

/-- R109, R111: `WRTEXT`, admitted, ends the session, logs the out-of-range slots, sends the encoded frame and sets `F`.
On the device, the bus and the serializer: log entries 6, 4, 14. -/
def Obligations.WrtextResult : Prop :=
  ∀ (text : List Int) (dots : List Bool) (s : State), s.fatal = false → s.inited = true →
    exec (.wrtext text dots) s = .next
      { sentFrame (encodeFrame s.cfg text dots) (logged text (sessionEnded s)) with
        frame := some (encodeFrame s.cfg text dots) }

/-- R110, R111: `CLEAR`, admitted, ends the session, sends nine 0x00 bytes and sets `F` to the zero frame. On the
device, the bus and the serializer: log entries 6, 4, 14. -/
def Obligations.ClearResult : Prop :=
  ∀ s : State, s.fatal = false → s.inited = true →
    exec .clear s = .next
      { sent (List.replicate 9 0x00#8)
          (fun d => { d with ram := memStore d.ram startAddr.toNat (List.replicate 8 0x00#8) }) (sessionEnded s) with
        frame := some ⟨0x0000#16, 0x0000#16, 0x0000#16, 0x0000#16⟩ }

/-- R38, R68 to R71: a wire transaction by itself, outside the fatal state, puts its bytes on the bus and changes no
bookkeeping register; in the fatal state nothing is sent (R152). That a transaction alone writes no bookkeeping is
log entry 11. On the device, the bus and the serializer: log entries 6, 4, 14. -/
def Obligations.WireTransactionResult : Prop :=
  (∀ s : State, s.fatal = false →
    exec .wOsc s = .next (sent [s.cfg.kOscOn] (fun d => { d with osc := some s.cfg.kOscOn }) s) ∧
    (∀ rate, exec (.wBlink rate) s = .next
      (sent [blinkByte s.cfg rate] (fun d => { d with blink := some (blinkByte s.cfg rate) }) s)) ∧
    (∀ level, exec (.wBright level) s = .next
      (sent [brightByte s.cfg level] (fun d => { d with bright := some (brightByte s.cfg level) }) s)) ∧
    ∀ f, exec (.wFrame f) s = .next (sentFrame f s)) ∧
  (∀ s : State, s.fatal = true → exec .wOsc s = .next s ∧ (∀ rate, exec (.wBlink rate) s = .next s) ∧
    (∀ level, exec (.wBright level) s = .next s) ∧ ∀ f, exec (.wFrame f) s = .next s)

/-- R105 (J5 §8, "a functionally idempotent device state regardless"): skipping an unchanged level leaves the device and
the registers `inited`, `blink`, `bright`, `F`, the session, `fatal` and `status` apart from bit 2 as writing it
would. The device is the model's image of it (log entry 6). -/
def Obligations.BrightSkipLeavesSameDevice : Prop :=
  ∀ (level : Int) (s : State), DeviceMirrorsBookkeeping s → ∃ t u,
    exec (.setbright level) s = .next t ∧
    exec (.setbright level) { s with cfg := { s.cfg with brightSkip := false } } = .next u ∧
    t.device = u.device ∧ t.bright = u.bright ∧ t.blink = u.blink ∧ t.inited = u.inited ∧ t.frame = u.frame ∧
    t.session = u.session ∧ t.fatal = u.fatal ∧ t.status &&& 0xFB#8 = u.status &&& 0xFB#8

/-! ### The Scroll Engine -/

/-- R131, R138: `SCROLL`, admitted and not too long, ends the old session, opens a new one at step 0 with `total` = `L`
+ 4, arms the timer and sends nothing. -/
def Obligations.ScrollResult : Prop :=
  ∀ (stop : Bool) (text : List Int) (dots : List Bool) (ivl : Word) (s : State),
    s.fatal = false → s.inited = true → text.length ≤ s.cfg.textMax →
    exec (.scroll stop text dots ivl) s = .next
      { s with
        session := some { tb := textBuffer text dots, ivl := ivl, stop := stop, step := 0, total := text.length + 4 }
        trace := s.trace ++ (if s.active then [.timerCancel] else []) ++ [.timerArm ivl] }

/-- R132: the map of a session has one flag per character; missing flags are false, surplus flags are dropped. -/
def Obligations.TextBufferHasOneFlagPerCharacter : Prop :=
  ∀ (text : List Int) (dots : List Bool), (textBuffer text dots).length = text.length ∧
    ∀ j < text.length, (textBuffer text dots)[j]?
      = some (text.getD j 0, if j < dots.length then dots.getD j true else false)

/-- R157: a `SCROLL` longer than `TEXT_MAX`, admitted, is refused with `E_TOOLONG` and its count; nothing else changes,
a running session goes on. -/
def Obligations.TooLongScrollIsRefused : Prop :=
  ∀ (stop : Bool) (text : List Int) (dots : List Bool) (ivl : Word) (s : State),
    (Instr.scroll stop text dots ivl).wellFormed = true → s.fatal = false → s.inited = true →
    s.cfg.textMax < text.length →
    exec (.scroll stop text dots ivl) s = .next
      { s with status := s.status ||| 0x40#8, trace := s.trace ++ [.err .tooLong (BitVec.ofNat 16 text.length)] } ∧
    (BitVec.ofNat 16 text.length).toNat = text.length

/-- R133: `SCRSTOP`, admitted, ends the session with one `TimerCancel`, or does nothing; a second one does nothing. -/
def Obligations.ScrstopResult : Prop :=
  ∀ s : State, s.fatal = false → s.inited = true →
    exec .scrstop s = .next (sessionEnded s) ∧ exec .scrstop (sessionEnded s) = .next (sessionEnded s)

/-- R134: a tick of a session at `step` ≤ `total` logs the out-of-range characters of the window, sends its frame, sets
`F` and adds 1 to `step`. On the device, the bus and the serializer: log entries 6, 4, 14. -/
def Obligations.TickSendsWindow : Prop :=
  ∀ (x : Session) (s : State), s.fatal = false → s.session = some x → x.step ≤ x.total →
    exec .tick s = .next
      { sentFrame (encodeFrame s.cfg (windowText x x.step) (windowDots x x.step))
          (logged (windowText x x.step) s) with
        frame := some (encodeFrame s.cfg (windowText x x.step) (windowDots x x.step))
        session := some { x with step := x.step + 1 } }

/-- R136, R137: a tick that finds `step` > `total` sends nothing: a looping session goes back to step 0, a stopping one
ends with `TimerCancel`. -/
def Obligations.TickPastEndWrapsOrEnds : Prop :=
  ∀ (x : Session) (s : State), s.fatal = false → s.session = some x → x.total < x.step →
    (x.stop = false → exec .tick s = .next { s with session := some { x with step := 0 } }) ∧
    (x.stop = true → exec .tick s = .next { s with session := none, trace := s.trace ++ [.timerCancel] })

/-- R140: a tick with no session does nothing; so does one in the fatal state, and one before `INIT` (where R29 says
there is no session). -/
def Obligations.TickWithoutSessionDoesNothing : Prop :=
  ∀ s : State, (s.session = none ∨ s.fatal = true ∨ (RegisterInv s ∧ s.inited = false)) → exec .tick s = .next s

/-- R135: the window function; the frame of step `k` shows positions `k` to `k` + 3 in slots 0 to 3; so character `j` is
in slot `i` at step `j` + 4 - `i`, and in a pass the highest position read is `L` + 7. -/
def Obligations.WindowSlidesOverPaddedText : Prop :=
  ∀ x : Session,
    (∀ p < 4, window x p = (32, false)) ∧
    (∀ p, 4 ≤ p → p < 4 + x.len → some (window x p) = x.tb[p - 4]?) ∧
    (∀ p, 4 + x.len ≤ p → window x p = (32, false)) ∧
    (∀ k, ∀ i < 4, (windowText x k)[i]? = some (window x (k + i)).1 ∧ (windowDots x k)[i]? = some (window x (k + i)).2) ∧
    (∀ j < x.len, ∀ i < 4, (windowText x (j + 4 - i))[i]? = (x.tb[j]?).map Prod.fst ∧
      (windowDots x (j + 4 - i))[i]? = (x.tb[j]?).map Prod.snd) ∧
    (∀ k ≤ x.len + 4, ∀ i < 4, k + i ≤ x.len + 7)

/-- R134, R137, R139, R142: from step 0 a pass sends the frames of steps 0 to `L` + 4, `L` + 5 in all, one a tick; the
tick after them sends nothing and ends a stopping session or takes a looping one back to step 0. -/
def Obligations.ScrollPassSendsEveryStep : Prop :=
  ∀ (x : Session) (s : State), s.fatal = false → s.session = some x → x.step = 0 → x.total = x.len + 4 →
    (∀ k ≤ x.len + 5, ∃ t, ticks k s = .next t ∧ t.session = some { x with step := k } ∧
      busBytes t.trace = busBytes s.trace
        ++ (List.range k).map fun j => serialize (encodeFrame s.cfg (windowText x j) (windowDots x j))) ∧
    ∃ t, ticks (x.len + 6) s = .next t ∧
      t.session = (if x.stop then none else some { x with step := 0 }) ∧
      busBytes t.trace = busBytes s.trace
        ++ (List.range (x.len + 5)).map fun j => serialize (encodeFrame s.cfg (windowText x j) (windowDots x j))

/-- R139: the frames of step 0 and of step `total` are blank, for every table that keeps R83. -/
def Obligations.PassBeginsAndEndsBlank : Prop :=
  ∀ (cfg : Config) (x : Session), cfg.wf = true →
    encodeFrame cfg (windowText x 0) (windowDots x 0) = ⟨0x0000#16, 0x0000#16, 0x0000#16, 0x0000#16⟩ ∧
    encodeFrame cfg (windowText x (x.len + 4)) (windowDots x (x.len + 4)) = ⟨0x0000#16, 0x0000#16, 0x0000#16, 0x0000#16⟩

/-! ### Reset -/

/-- R181: the registers after a reset event, whatever they were; `SETBRIGHT` cannot run then, and `INIT` writes
`bright`. -/
def Obligations.ResetRegisters : Prop :=
  ∀ s : State, ∃ t, exec .reset s = .next t ∧
    t.inited = false ∧ t.blink = none ∧ t.bright = none ∧ t.frame = none ∧ t.active = false ∧
    t.fatal = (!s.cfg.busPresent) ∧ t.status = (if s.cfg.busPresent then 0x00#8 else 0x02#8) ∧
    t.ser = .idle ∧ t.cfg.rom = s.cfg.rom ∧
    (∀ level, s.cfg.busPresent = true → exec (.setbright level) t = .next (refused .noInit 0x0003#16 t)) ∧
    (∀ level rate, s.cfg.busPresent = true →
      ∃ u, exec (.init level rate) t = .next u ∧ u.bright = some (clampLevel level))

/-- R180, R182: a reset event as a whole: the registers of R181, a new trace that opens with the reset's own outputs,
and the device, the pending input, the bus and the ports as they were. That these outputs open the new trace is the
model's reading (log entry 5); so is that the pending events and answers, the lookup port and the model's own fields
stay (log entry 16). -/
def Obligations.ResetResult : Prop :=
  ∀ s : State,
    exec .reset s = .next
      { s with
        inited := false
        blink := none
        bright := none
        frame := none
        session := none
        fatal := !s.cfg.busPresent
        status := if s.cfg.busPresent then 0x00#8 else 0x02#8
        ser := .idle
        trace := (if s.active then [.timerCancel] else [])
          ++ (if s.cfg.busPresent then [] else [.err .noBus 0x0000#16]) }

/-! ### Faults -/

/-- R101, R161: the tests of a packet in their order, and what the first that fails reports; only then the rule of the
command. -/
def Obligations.PacketTestsInOrder : Prop :=
  ∀ (s : State) (p : List Byte) (rest : List Event), s.input = .cmd p :: rest →
    (s.fatal = true →
      step s = .next (refused .noBus ((p.headD 0x00#8).setWidth 16) { s with input := rest })) ∧
    (s.fatal = false → ∀ op, decode p = .malformed op →
      step s = .next (refused .malformed (op.setWidth 16) { s with input := rest })) ∧
    (s.fatal = false → p = [] → step s = .next (refused .malformed 0x0000#16 { s with input := rest })) ∧
    (s.fatal = false → ∀ op, decode p = .instr (.reservedOpcode op) →
      step s = .next (refused .badOp (op.setWidth 16) { s with input := rest })) ∧
    (s.fatal = false → s.inited = false → ∀ i op, decode p = .instr i → opcodeByte i = some op → op ≠ 0x01#8 →
      0x01#8 ≤ op → op ≤ 0x08#8 →
      step s = .next (refused .noInit (op.setWidth 16) { s with input := rest })) ∧
    (s.fatal = false → ∀ i op, decode p = .instr i → opcodeByte i = some op → (s.inited = true ∨ op = 0x01#8) →
      step s = exec i { s with input := rest })

/-- R152: the fatal state: how a reset enters and leaves it, that every packet is answered with `Err(E_NOBUS, opcode)`
and nothing else happens, that ticks do nothing, that no transaction is sent, and that the lookup port still works.
-/
def Obligations.FatalStateAnswersNoBus : Prop :=
  (∀ s t : State, exec .reset s = .next t → (t.fatal = true ↔ s.cfg.busPresent = false) ∧
    t.cfg = s.cfg ∧ (s.cfg.busPresent = false → t.status.getLsbD 1 = true ∧
      (t.trace.filter fun e => decide (outputKind e = some 1)) = [.err .noBus 0x0000#16])) ∧
  (∀ (s : State) (p : List Byte) (rest : List Event), s.fatal = true → s.input = .cmd p :: rest →
    step s = .next
      { s with
        input := rest
        status := s.status ||| 0x02#8
        trace := s.trace ++ [.err .noBus ((p.headD 0x00#8).setWidth 16)] }) ∧
  (∀ s : State, s.fatal = true → exec .tick s = .next s) ∧
  (∀ (i : Instr) (s t : State), i ≠ .reset → s.fatal = true → exec i s = .next t →
    t.fatal = true ∧ t.cfg = s.cfg ∧ busBytes t.trace = busBytes s.trace) ∧
  (∀ (c : Int) (s : State), s.fatal = true →
    ∃ t, exec (.lookupGlyph c) s = .next t ∧ t.lk.mask = (lookup s.cfg c).1)

/-- R154: a well-formed command other than `INIT` while `inited` = 0: `Err(E_NOINIT, opcode)`, `status[3]`, nothing
else. -/
def Obligations.CommandBeforeInitIsRefused : Prop :=
  ∀ (i : Instr) (op : Byte) (s : State), opcodeByte i = some op → 0x02#8 ≤ op → op ≤ 0x08#8 →
    (∀ b, i ≠ .reservedOpcode b) → s.fatal = false → s.inited = false →
    exec i s = .next
      { s with status := s.status ||| 0x08#8, trace := s.trace ++ [.err .noInit (op.setWidth 16)] }

/-- R155, R65: a packet whose first byte is 0x00 or 0x09..0xFF, outside the fatal state: `Err(E_BADOP, byte)`,
`status[4]`, nothing else; the whole packet is dropped, the next event stands next. -/
def Obligations.ReservedOpcodeIsBadOp : Prop :=
  (∀ (op : Byte) (p : List Byte) (rest : List Event) (s : State), (op = 0x00#8 ∨ 0x09#8 ≤ op) → s.fatal = false →
    s.input = .cmd (op :: p) :: rest →
    step s = .next
      { s with
        input := rest
        status := s.status ||| 0x10#8
        trace := s.trace ++ [.err .badOp (op.setWidth 16)] }) ∧
  (∀ (op : Byte) (s : State), s.fatal = false →
    exec (.reservedOpcode op) s = .next
      { s with status := s.status ||| 0x10#8, trace := s.trace ++ [.err .badOp (op.setWidth 16)] })

/-- R156: a packet the decoder answers with `Bad(E_MALFORMED, op)`, the empty packet with op 0, outside the fatal state:
`Err(E_MALFORMED, op)`, `status[5]`, nothing else. -/
def Obligations.IllFormedPacketIsMalformed : Prop :=
  (∀ (op : Byte) (p : List Byte) (rest : List Event) (s : State), decode p = .malformed op → s.fatal = false →
    s.input = .cmd p :: rest →
    step s = .next
      { s with
        input := rest
        status := s.status ||| 0x20#8
        trace := s.trace ++ [.err .malformed (op.setWidth 16)] }) ∧
  (∀ s : State, s.fatal = false →
    exec .emptyPacket s = .next
      { s with status := s.status ||| 0x20#8, trace := s.trace ++ [.err .malformed 0x0000#16] })

/-! ### The step -/

/-- R26: a step takes the oldest pending event and runs exactly what it stands for: a packet's decoded operation, a
tick, a reset; with no event the state stays (R203). The list `input` and the model's own unit events are log
entries 3 and 9. -/
def Obligations.StepRunsOldestEvent : Prop :=
  ∀ (s : State) (rest : List Event),
    (∀ p i, s.input = .cmd p :: rest → decode p = .instr i → step s = exec i { s with input := rest }) ∧
    (s.input = .tick :: rest → step s = exec .tick { s with input := rest }) ∧
    (s.input = .reset :: rest → step s = exec .reset { s with input := rest }) ∧
    (∀ u, s.input = .unit u :: rest → step s = exec (unitInstr u) { s with input := rest }) ∧
    (s.input = [] → step s = .next s)

/-- R160, R191: nothing stops the machine: every step answers a next state. That `Fault` has no constructor is log entry
19. -/
def Obligations.EveryStepCompletes : Prop := ∀ s : State, ∃ t, step s = .next t

/-! ### Frames and rules over every operation -/

/-- 20_memory.md R33, R37: an operation that sends a frame stores its eight data bytes at the addresses from the start
address on; every other address, and all of the device's memory where no frame is sent, reads as before. The
device's memory is the model's image of it (log entry 6). -/
def Obligations.OnlyFramesStoreAndOnlyTheirBytes : Prop :=
  ∀ (i : Instr) (s t : State), exec i s = .next t →
    (frameSent i s = none → ∀ a, memRead t.device.ram a = memRead s.device.ram a) ∧
    (∀ f, frameSent i s = some f → ∀ a,
      (startAddr.toNat ≤ a → a < startAddr.toNat + 8 →
        memRead t.device.ram a = (frameBytes f)[a - startAddr.toNat]?) ∧
      (a < startAddr.toNat ∨ startAddr.toNat + 8 ≤ a → memRead t.device.ram a = memRead s.device.ram a))

/-- R15 (and R11, R13, R14): apart from reset, `blink` is written by `INIT` and `SETBLINK` only, `bright` by `INIT` and
`SETBRIGHT` only, `F` by the content commands and the tick only; `INIT` writes both `blink` and `bright` and leaves
`F` alone. -/
def Obligations.ConfigurationAndContentAreIndependent : Prop :=
  ∀ (i : Instr) (s t : State), i ≠ .reset → exec i s = .next t →
    (t.blink ≠ s.blink → (∃ level rate, i = .init level rate) ∨ ∃ rate, i = .setblink rate) ∧
    (t.bright ≠ s.bright → (∃ level rate, i = .init level rate) ∨ ∃ level, i = .setbright level) ∧
    (t.frame ≠ s.frame →
      (∃ f, i = .wrframe f) ∨ (∃ text dots, i = .wrtext text dots) ∨ i = .clear ∨ i = .tick) ∧
    (∀ level rate, i = .init level rate → s.fatal = false →
      t.blink = some (normRate rate) ∧ t.bright = some (clampLevel level) ∧ t.frame = s.frame)

/-- R12: `inited` goes from 0 to 1 by `INIT` and by nothing else, and from 1 to 0 by reset only. -/
def Obligations.OnlyInitEnables : Prop :=
  ∀ (i : Instr) (s t : State), exec i s = .next t → t.inited ≠ s.inited →
    (t.inited = true ∧ ∃ level rate, i = .init level rate) ∨ (t.inited = false ∧ i = .reset)

/-- R17, R144, D12: which operations change the session, and that the rest leave every session register alone. -/
def Obligations.OnlyScrollAndContentTouchSession : Prop :=
  ∀ (i : Instr) (s t : State), exec i s = .next t → t.session ≠ s.session →
    i = .reset ∨ i = .tick ∨ i = .scrstop ∨ i = .clear ∨ (∃ f, i = .wrframe f) ∨ (∃ text dots, i = .wrtext text dots) ∨
    (∃ stop text dots ivl, i = .scroll stop text dots ivl)

/-- R16, R29 item 6, R162: a step loses no set bit of `status` unless its event is a reset. -/
def Obligations.StatusBitsAreSticky : Prop :=
  ∀ s t : State, step s = .next t → s.input.head? ≠ some .reset → s.status &&& t.status = s.status

/-- R28, R40, R180: a step only appends to the output trace, unless its event is a reset, which starts a new one. -/
def Obligations.TraceOnlyGrows : Prop :=
  ∀ s t : State, step s = .next t → s.input.head? ≠ some .reset → s.trace <+: t.trace

/-- R25, R84: no step changes a parameter, the glyph table among them. -/
def Obligations.ParametersNeverChange : Prop := ∀ s t : State, step s = .next t → t.cfg = s.cfg

/-- R44, R115 (90_conflicts.md C3): nothing uses the bus's answers: from two states that agree but for the answers still
to come, the `E_BUSERR` records and `status[2]`, every operation, and every step, leads to two that again agree but
for these. The list `answers` is log entry 4. -/
def Obligations.BusAnswersAreOnlyReported : Prop :=
  (∀ (i : Instr) (s s' : State), hideAnswers s = hideAnswers s' →
    hideOutcome (exec i s) = hideOutcome (exec i s')) ∧
  (∀ s s' : State, hideAnswers s = hideAnswers s' → hideOutcome (step s) = hideOutcome (step s'))

/-! ### Invariants -/

/-- R29, R144, R151, R181: the machine right after reset meets every invariant below, for all parameters that keep R6's
constraints; and the default parameters keep them. What the model's own fields hold then is log entries 1, 3, 4, 6,
7. -/
def Obligations.InvariantsHoldAtReset : Prop :=
  Config.default.wf = true ∧ State.reset = State.powerOn Config.default ∧
  ∀ c : Config,
    RegisterInv (State.powerOn c) ∧ StatusMirrorsTrace (State.powerOn c) ∧ TimerMirrorsSession (State.powerOn c) ∧
    DeviceMirrorsBookkeeping (State.powerOn c) ∧ FrameMirrorsTrace (State.powerOn c) ∧
    DeviceMemoryCanonical (State.powerOn c) ∧ TraceHasWireShape (State.powerOn c) ∧
    LookupPinsHold (State.powerOn c) ∧ (State.powerOn c).ser = .idle

/-- R29 items 1 to 5: every step keeps them: a session only where `inited` is set and `fatal` is not; `total` = `L` + 4,
`step` ≤ `total` + 1, `L` ≤ `TEXT_MAX`; `blink` and `bright` known once `inited`; `F` only once `inited`; and in the
fatal state none of these and no transaction on the trace. -/
def Obligations.StepKeepsRegisterInvariant : Prop :=
  ∀ s t : State, RegisterInv s → step s = .next t → RegisterInv t

/-- R73, R151: every step keeps `status` equal to what the trace's records say, bit by bit. -/
def Obligations.StepKeepsStatusAndTraceTogether : Prop :=
  ∀ s t : State, StatusMirrorsTrace s → step s = .next t → StatusMirrorsTrace t

/-- R144: every step keeps the number of outstanding timer armings equal to `active`. -/
def Obligations.StepKeepsOneTimerPerSession : Prop :=
  ∀ s t : State, TimerMirrorsSession s → step s = .next t → TimerMirrorsSession t

/-- R11, R13, R14: on the events of R26, every step keeps the bookkeeping registers equal to what was last sent to the
device. That the device stores a frame's bytes at rising addresses is general knowledge (log entry 6). -/
def Obligations.StepKeepsBookkeepingTrue : Prop :=
  ∀ s t : State, DeviceMirrorsBookkeeping s → step s = .next t → DeviceMirrorsBookkeeping t

/-- R11: on the events of R26, every step keeps `F` equal to the last frame transaction of the trace. The premise on the
events is log entry 9. -/
def Obligations.StepKeepsFrameOnTrace : Prop :=
  ∀ s t : State, FrameMirrorsTrace s → step s = .next t → FrameMirrorsTrace t

/-- R30, R33: every step keeps the device's memory in canonical form and within the addresses 0x00..0x07. The memory is
the model's image of it (log entry 6). -/
def Obligations.StepKeepsDeviceMemoryCanonical : Prop :=
  ∀ s t : State, DeviceMemoryCanonical s → step s = .next t → DeviceMemoryCanonical t

/-- R67: every step keeps the trace's transactions to `DEV_ADDR` and to the two shapes. -/
def Obligations.StepKeepsWireShape : Prop :=
  ∀ s t : State, TraceHasWireShape s → step s = .next t → TraceHasWireShape t

/-- R23, R86: at every event boundary the serializer is idle and the lookup port carries `lookup` of its code. The two
fields are log entries 14 and 7. -/
def Obligations.StepKeepsSerializerIdleAndPortsTrue : Prop :=
  ∀ s t : State, s.ser = .idle → LookupPinsHold s → step s = .next t → t.ser = .idle ∧ LookupPinsHold t
end

