-- ==== Sys2Proof/Laws/PerInstr.lean ====
section
/-! SUPPORT. Two families of statements over all operations: the first byte of a packet is the table's opcode, and a
packet's length is the table's (30_encoding.md R50, R55 to R62). -/

namespace Sys2Proof.Laws

/-- The bytes of a list of characters. -/
theorem charBytes_length (text : List Int) : (text.flatMap intBytes).length = 2 * text.length := by
  induction text with
  | nil => rfl
  | cons c rest ih =>
    simp only [List.flatMap_cons, List.length_append, List.length_cons, ih]
    simp only [intBytes, wordBytes, List.length_cons, List.length_nil]
    omega

namespace FirstByteIsOpcode

/-- The first byte of the packet is the opcode byte. -/
def Statement (i : Instr) : Prop := ∀ p, encode i = some p → p.head? = opcodeByte i

theorem init (level rate : Int) : Statement (.init level rate) := by
  intro p h
  cases h
  rfl

theorem setblink (rate : Int) : Statement (.setblink rate) := by
  intro p h
  cases h
  rfl

theorem setbright (level : Int) : Statement (.setbright level) := by
  intro p h
  cases h
  rfl

theorem wrframe (slots : Frame) : Statement (.wrframe slots) := by
  intro p h
  cases h
  rfl

theorem wrtext (text : List Int) (dots : List Bool) : Statement (.wrtext text dots) := by
  intro p h
  cases h
  rfl

theorem clear : Statement (.clear) := by
  intro p h
  cases h
  rfl

theorem scroll (stop : Bool) (text : List Int) (dots : List Bool) (ivl : Word) : Statement (.scroll stop text dots ivl) := by
  intro p h
  cases h
  rfl

theorem scrstop : Statement (.scrstop) := by
  intro p h
  cases h
  rfl

theorem reservedOpcode (op : Byte) : Statement (.reservedOpcode op) := by
  intro p h
  cases h
  rfl

theorem emptyPacket : Statement (.emptyPacket) := by
  intro p h
  cases h
  rfl

theorem tick : Statement (.tick) := by
  intro p h
  cases h

theorem reset : Statement (.reset) := by
  intro p h
  cases h

theorem wOsc : Statement (.wOsc) := by
  intro p h
  cases h

theorem wBlink (rate : BitVec 2) : Statement (.wBlink rate) := by
  intro p h
  cases h

theorem wBright (level : BitVec 4) : Statement (.wBright level) := by
  intro p h
  cases h

theorem wFrame (slots : Frame) : Statement (.wFrame slots) := by
  intro p h
  cases h

theorem lookupGlyph (c : Int) : Statement (.lookupGlyph c) := by
  intro p h
  cases h

theorem encodeText (text : List Int) (dots : List Bool) : Statement (.encodeText text dots) := by
  intro p h
  cases h

theorem serializeFrame (slots : Frame) : Statement (.serializeFrame slots) := by
  intro p h
  cases h

end FirstByteIsOpcode

namespace LengthIsTables

/-- The length of the packet is the one the table's row gives. -/
def Statement (i : Instr) : Prop := ∀ p, encode i = some p → packetLength i = some p.length

theorem init (level rate : Int) : Statement (.init level rate) := by
  intro p h
  cases h
  rfl

theorem setblink (rate : Int) : Statement (.setblink rate) := by
  intro p h
  cases h
  rfl

theorem setbright (level : Int) : Statement (.setbright level) := by
  intro p h
  cases h
  rfl

theorem wrframe (slots : Frame) : Statement (.wrframe slots) := by
  intro p h
  cases h
  rfl

theorem wrtext (text : List Int) (dots : List Bool) : Statement (.wrtext text dots) := by
  intro p h
  cases h
  simp only [packetLength, List.length_cons, List.length_append, charBytes_length, packFlags, List.length_map,
    List.length_range]
  congr 1
  omega

theorem clear : Statement (.clear) := by
  intro p h
  cases h
  rfl

theorem scroll (stop : Bool) (text : List Int) (dots : List Bool) (ivl : Word) : Statement (.scroll stop text dots ivl) := by
  intro p h
  cases h
  simp only [packetLength, List.length_cons, List.length_append, charBytes_length, packFlags, List.length_map,
    List.length_range, wordBytes, List.length_nil]
  congr 1
  omega

theorem scrstop : Statement (.scrstop) := by
  intro p h
  cases h
  rfl

theorem reservedOpcode (op : Byte) : Statement (.reservedOpcode op) := by
  intro p h
  cases h
  rfl

theorem emptyPacket : Statement (.emptyPacket) := by
  intro p h
  cases h
  rfl

theorem tick : Statement (.tick) := by
  intro p h
  cases h

theorem reset : Statement (.reset) := by
  intro p h
  cases h

theorem wOsc : Statement (.wOsc) := by
  intro p h
  cases h

theorem wBlink (rate : BitVec 2) : Statement (.wBlink rate) := by
  intro p h
  cases h

theorem wBright (level : BitVec 4) : Statement (.wBright level) := by
  intro p h
  cases h

theorem wFrame (slots : Frame) : Statement (.wFrame slots) := by
  intro p h
  cases h

theorem lookupGlyph (c : Int) : Statement (.lookupGlyph c) := by
  intro p h
  cases h

theorem encodeText (text : List Int) (dots : List Bool) : Statement (.encodeText text dots) := by
  intro p h
  cases h

theorem serializeFrame (slots : Frame) : Statement (.serializeFrame slots) := by
  intro p h
  cases h

end LengthIsTables

end Sys2Proof.Laws
end

