-- ==== Sys2Proof/Laws/Encoding.lean ====
section
/-! SUPPORT. The small lemmas of the packet fields: 16-bit operands, character lists and flag lists are read back from
their bytes. -/

namespace Sys2Proof

/-- The value of two bytes, low byte first. -/
theorem word16_toNat (lo hi : Byte) : (word16 lo hi).toNat = 256 * hi.toNat + lo.toNat := by
  rw [word16, BitVec.toNat_append, ← Nat.shiftLeft_add_eq_or_of_lt lo.isLt, Nat.shiftLeft_eq]
  omega

/-- A word is read back from its two bytes. -/
theorem word16_bytes (v : Word) : word16 (loByte v) (hiByte v) = v := by
  apply BitVec.eq_of_toNat_eq
  rw [word16_toNat, loByte, hiByte, BitVec.extractLsb'_toNat, BitVec.extractLsb'_toNat, Nat.shiftRight_eq_div_pow,
    Nat.shiftRight_eq_div_pow]
  have := v.isLt
  omega

/-- An integer of the field's range is read back from its two bytes. -/
theorem sext16_bytes (v : Int) (h : fitsInt16 v = true) : sext16 (loByte (int16Word v)) (hiByte (int16Word v)) = v := by
  simp only [fitsInt16, Bool.and_eq_true, decide_eq_true_eq] at h
  rw [sext16, word16_bytes, int16Word, BitVec.toInt_ofInt]
  simp only [Int.bmod]
  omega

/-- What two bytes say is in the field's range. -/
theorem sext16_fits (lo hi : Byte) : fitsInt16 (sext16 lo hi) = true := by
  have := (word16 lo hi).isLt
  rw [fitsInt16, sext16, BitVec.toInt_eq_toNat_cond, Bool.and_eq_true, decide_eq_true_eq, decide_eq_true_eq]
  split <;> norm_num at * <;> omega

/-- A character list is read back from its bytes, whatever follows them. -/
theorem chars_charBytes (text : List Int) (h : ∀ c ∈ text, fitsInt16 c = true) (rest : List Byte) :
    chars text.length (text.flatMap intBytes ++ rest) = text := by
  induction text with
  | nil => cases rest <;> rfl
  | cons c t ih =>
    simp only [List.flatMap_cons, List.length_cons, intBytes, wordBytes, List.cons_append, List.nil_append, chars]
    rw [sext16_bytes c (h c (by simp)), ih fun c hc => h c (by simp [hc])]

/-- A character list that is read has at most the characters asked for, each in the field's range. -/
theorem chars_fit (n : Nat) (p : List Byte) : (chars n p).length ≤ n ∧ ∀ c ∈ chars n p, fitsInt16 c = true := by
  induction n generalizing p with
  | zero => simp [chars]
  | succ n ih =>
    match p with
    | [] => simp [chars]
    | [_] => simp [chars]
    | a :: b :: r =>
      have := ih r
      simp only [chars, List.length_cons, List.mem_cons]
      refine ⟨by omega, ?_⟩
      rintro c (rfl | h)
      · exact sext16_fits _ _
      · exact this.2 c h

/-- The bits of a packed byte. -/
theorem packByte_bit : ∀ b0 b1 b2 b3 b4 b5 b6 b7 : Bool, ∀ i : Fin 8,
    (packByte b0 b1 b2 b3 b4 b5 b6 b7).getLsbD i.val = [b0, b1, b2, b3, b4, b5, b6, b7].getD i.val false := by
  decide

/-- Bit `i` of byte `k` of a packed list is flag `8k + i`. -/
theorem flagByte_bit (dots : List Bool) (k i : Nat) (h : i < 8) :
    (flagByte dots k).getLsbD i = dots.getD (8 * k + i) false := by
  rw [flagByte, packByte_bit _ _ _ _ _ _ _ _ ⟨i, h⟩]
  interval_cases i <;> rfl

/-- What a packet decodes to: the empty packet, or an operation whose opcode is the packet's first byte. -/
theorem decode_opcode {p : List Byte} {i : Instr} (h : decode p = .instr i) :
    (p = [] ∧ i = .emptyPacket) ∨ ∃ op rest, p = op :: rest ∧ opcodeByte i = some op ∧ i ≠ .emptyPacket := by
  cases p with
  | nil =>
    cases h
    exact .inl ⟨rfl, rfl⟩
  | cons op q =>
    refine .inr ⟨op, q, rfl, ?_⟩
    simp only [decode, decodeInit, decodeSetblink, decodeSetbright, decodeWrframe, decodeWrtext, decodeClear,
      decodeScroll, decodeScrstop] at h
    repeat' split at h
    all_goals cases h
    all_goals subst_vars
    all_goals exact ⟨rfl, by simp⟩

/-- A malformed packet is not empty, and is reported with its first byte. -/
theorem decode_malformed {p : List Byte} {op : Byte} (h : decode p = .malformed op) : ∃ rest, p = op :: rest := by
  cases p with
  | nil => cases h
  | cons a q =>
    refine ⟨q, ?_⟩
    simp only [decode, decodeInit, decodeSetblink, decodeSetbright, decodeWrframe, decodeWrtext, decodeClear,
      decodeScroll, decodeScrstop] at h
    repeat' split at h
    all_goals cases h
    all_goals subst_vars
    all_goals rfl

end Sys2Proof
end

