-- ==== Sys2Proof/Laws/Memory.lean ====
section
/-! SUPPORT. The device memory: what a write leaves at every address, and that every write keeps the canonical form. -/

namespace Sys2Proof.Machine

@[simp] theorem memRead_nil (a : Nat) : memRead [] a = none := rfl

/-- A read after a write to the same address gives the byte written; a write leaves every other address alone. -/
theorem memRead_memWrite (m : Memory) (a : Nat) (b : Byte) (x : Nat) :
    memRead (memWrite m a b) x = if a = x then some b else memRead m x := by
  induction m with
  | nil => simp [memWrite, memRead]
  | cons e rest ih =>
    obtain ⟨y, v⟩ := e
    by_cases h1 : a < y
    · simp [memWrite, h1, memRead]
    · by_cases h2 : a = y
      · subst h2
        by_cases h3 : a = x <;> simp [memWrite, memRead, h3]
      · simp only [memWrite, h1, h2, if_false, memRead, ih]
        by_cases h3 : y = x
        · subst h3
          simp [h2]
        · simp [h3]

/-- A store leaves the addresses outside its bytes alone. -/
theorem memRead_memStore_outside (bytes : List Byte) (m : Memory) (a x : Nat) (h : x < a ∨ a + bytes.length ≤ x) :
    memRead (memStore m a bytes) x = memRead m x := by
  induction bytes generalizing m a with
  | nil => rfl
  | cons b rest ih =>
    simp only [memStore, List.length_cons] at *
    rw [ih _ _ (by omega), memRead_memWrite, if_neg (by omega)]

/-- A store puts its `k`-th byte at the `k`-th address. -/
theorem memRead_memStore_inside (bytes : List Byte) (m : Memory) (a k : Nat) (h : k < bytes.length) :
    memRead (memStore m a bytes) (a + k) = bytes[k]? := by
  induction bytes generalizing m a k with
  | nil => simp at h
  | cons b rest ih =>
    cases k with
    | zero => simp [memStore, memRead_memStore_outside, memRead_memWrite]
    | succ k =>
      have := ih (memWrite m a b) (a + 1) k (by simpa using h)
      simpa [memStore, Nat.add_assoc, Nat.add_comm 1 k] using this

/-- Every address of a canonical memory lies above its first one's predecessor. -/
theorem memWrite_head_le (m : Memory) (a : Nat) (b : Byte) (lo : Nat) (ha : lo < a) (h : ∀ e ∈ m, lo < e.1) :
    ∀ e ∈ memWrite m a b, lo < e.1 := by
  induction m with
  | nil => simpa [memWrite] using ha
  | cons e rest ih =>
    obtain ⟨y, v⟩ := e
    have hy : lo < y := h (y, v) (by simp)
    have hr : ∀ e ∈ rest, lo < e.1 := fun e he => h e (by simp [he])
    intro e he
    by_cases h1 : a < y
    · simp only [memWrite, h1, if_true, List.mem_cons] at he
      rcases he with rfl | rfl | he
      · exact ha
      · exact hy
      · exact hr e he
    · by_cases h2 : a = y
      · subst h2
        simp only [memWrite, lt_irrefl, if_false, if_true, List.mem_cons] at he
        rcases he with rfl | he
        · exact hy
        · exact hr e he
      · simp only [memWrite, h1, if_false, h2, List.mem_cons] at he
        rcases he with rfl | he
        · exact hy
        · exact ih hr e he

/-- The canonical form, entry by entry. -/
theorem memory_wf_cons (x : Nat) (v : Byte) (rest : Memory) :
    Memory.wf ((x, v) :: rest) = true ↔ (∀ e ∈ rest, x < e.1) ∧ Memory.wf rest = true := by
  induction rest generalizing x v with
  | nil => simp [Memory.wf]
  | cons e rest ih =>
    obtain ⟨y, w⟩ := e
    simp only [Memory.wf, Bool.and_eq_true, decide_eq_true_eq]
    constructor
    · rintro ⟨hxy, hw⟩
      refine ⟨?_, hw⟩
      intro e he
      rcases List.mem_cons.mp he with rfl | he
      · exact hxy
      · exact Nat.lt_trans hxy (((ih y w).mp hw).1 e he)
    · rintro ⟨hx, hw⟩
      exact ⟨hx (y, w) (by simp), hw⟩

/-- A write keeps the canonical form. -/
theorem memWrite_wf (m : Memory) (a : Nat) (b : Byte) (h : Memory.wf m = true) :
    Memory.wf (memWrite m a b) = true := by
  induction m with
  | nil => rfl
  | cons e rest ih =>
    obtain ⟨y, v⟩ := e
    obtain ⟨hy, hr⟩ := (memory_wf_cons y v rest).mp h
    by_cases h1 : a < y
    · simp only [memWrite, h1, if_true]
      refine (memory_wf_cons a b _).mpr ⟨?_, h⟩
      intro e he
      rcases List.mem_cons.mp he with rfl | he
      · exact h1
      · exact Nat.lt_trans h1 (hy e he)
    · by_cases h2 : a = y
      · subst h2
        simp only [memWrite, lt_irrefl, if_false, if_true]
        exact (memory_wf_cons a b rest).mpr ⟨hy, hr⟩
      · simp only [memWrite, h1, if_false, h2]
        exact (memory_wf_cons y v _).mpr ⟨memWrite_head_le rest a b y (by omega) hy, ih hr⟩

/-- A store keeps the canonical form. -/
theorem memStore_wf (bytes : List Byte) (m : Memory) (a : Nat) (h : Memory.wf m = true) :
    Memory.wf (memStore m a bytes) = true := by
  induction bytes generalizing m a with
  | nil => exact h
  | cons b rest ih => exact ih _ _ (memWrite_wf m a b h)

/-- A write lists no address but the old ones and its own. -/
theorem memWrite_bound (m : Memory) (a : Nat) (b : Byte) (n : Nat) (ha : a < n) (h : ∀ e ∈ m, e.1 < n) :
    ∀ e ∈ memWrite m a b, e.1 < n := by
  induction m with
  | nil => simpa [memWrite] using ha
  | cons e rest ih =>
    obtain ⟨y, v⟩ := e
    have hy : y < n := h (y, v) (by simp)
    have hr : ∀ e ∈ rest, e.1 < n := fun e he => h e (by simp [he])
    intro e he
    by_cases h1 : a < y
    · simp only [memWrite, h1, if_true, List.mem_cons] at he
      rcases he with rfl | rfl | he
      exacts [ha, hy, hr e he]
    · by_cases h2 : a = y
      · subst h2
        simp only [memWrite, lt_irrefl, if_false, if_true, List.mem_cons] at he
        rcases he with rfl | he
        exacts [hy, hr e he]
      · simp only [memWrite, h1, if_false, h2, List.mem_cons] at he
        rcases he with rfl | he
        exacts [hy, ih hr e he]

/-- A store lists no address but the old ones and its own. -/
theorem memStore_bound (bytes : List Byte) (m : Memory) (a n : Nat) (ha : a + bytes.length ≤ n)
    (h : ∀ e ∈ m, e.1 < n) : ∀ e ∈ memStore m a bytes, e.1 < n := by
  induction bytes generalizing m a with
  | nil => exact h
  | cons b rest ih =>
    simp only [List.length_cons] at ha
    exact ih _ _ (by omega) (memWrite_bound m a b n (by omega) h)

/-- The memory after reset is in canonical form. -/
theorem reset_memory_wf : Memory.wf State.reset.device.ram = true := rfl

end Sys2Proof.Machine
end

