-- ==== Sys2Proof/Laws/State.lean ====
section
/-! SUPPORT. What each update of the state leaves in each field, once, so that no later proof unfolds a record
update. -/

namespace Sys2Proof.Machine

/-! ### `emit` -/

@[simp] theorem emit_cfg (e : Output) (s : State) : (emit e s).cfg = s.cfg := rfl

@[simp] theorem emit_inited (e : Output) (s : State) : (emit e s).inited = s.inited := rfl

@[simp] theorem emit_blink (e : Output) (s : State) : (emit e s).blink = s.blink := rfl

@[simp] theorem emit_bright (e : Output) (s : State) : (emit e s).bright = s.bright := rfl

@[simp] theorem emit_frame (e : Output) (s : State) : (emit e s).frame = s.frame := rfl

@[simp] theorem emit_session (e : Output) (s : State) : (emit e s).session = s.session := rfl

@[simp] theorem emit_fatal (e : Output) (s : State) : (emit e s).fatal = s.fatal := rfl

@[simp] theorem emit_status (e : Output) (s : State) : (emit e s).status = s.status := rfl

@[simp] theorem emit_ser (e : Output) (s : State) : (emit e s).ser = s.ser := rfl

@[simp] theorem emit_device (e : Output) (s : State) : (emit e s).device = s.device := rfl

@[simp] theorem emit_lk (e : Output) (s : State) : (emit e s).lk = s.lk := rfl

@[simp] theorem emit_encOut (e : Output) (s : State) : (emit e s).encOut = s.encOut := rfl

@[simp] theorem emit_serOut (e : Output) (s : State) : (emit e s).serOut = s.serOut := rfl

@[simp] theorem emit_input (e : Output) (s : State) : (emit e s).input = s.input := rfl

@[simp] theorem emit_answers (e : Output) (s : State) : (emit e s).answers = s.answers := rfl

@[simp] theorem emit_busSeq (e : Output) (s : State) : (emit e s).busSeq = s.busSeq := rfl

@[simp] theorem emit_trace (e : Output) (s : State) : (emit e s).trace = s.trace ++ [e] := rfl

/-! ### `report` -/

@[simp] theorem report_cfg (cause : Cause) (info : Word) (s : State) : (report cause info s).cfg = s.cfg := rfl

@[simp] theorem report_inited (cause : Cause) (info : Word) (s : State) : (report cause info s).inited = s.inited := rfl

@[simp] theorem report_blink (cause : Cause) (info : Word) (s : State) : (report cause info s).blink = s.blink := rfl

@[simp] theorem report_bright (cause : Cause) (info : Word) (s : State) : (report cause info s).bright = s.bright := rfl

@[simp] theorem report_frame (cause : Cause) (info : Word) (s : State) : (report cause info s).frame = s.frame := rfl

@[simp] theorem report_session (cause : Cause) (info : Word) (s : State) : (report cause info s).session = s.session := rfl

@[simp] theorem report_fatal (cause : Cause) (info : Word) (s : State) : (report cause info s).fatal = s.fatal := rfl

@[simp] theorem report_status (cause : Cause) (info : Word) (s : State) : (report cause info s).status = setStatus (causeCode cause) s.status := rfl

@[simp] theorem report_ser (cause : Cause) (info : Word) (s : State) : (report cause info s).ser = s.ser := rfl

@[simp] theorem report_device (cause : Cause) (info : Word) (s : State) : (report cause info s).device = s.device := rfl

@[simp] theorem report_lk (cause : Cause) (info : Word) (s : State) : (report cause info s).lk = s.lk := rfl

@[simp] theorem report_encOut (cause : Cause) (info : Word) (s : State) : (report cause info s).encOut = s.encOut := rfl

@[simp] theorem report_serOut (cause : Cause) (info : Word) (s : State) : (report cause info s).serOut = s.serOut := rfl

@[simp] theorem report_input (cause : Cause) (info : Word) (s : State) : (report cause info s).input = s.input := rfl

@[simp] theorem report_answers (cause : Cause) (info : Word) (s : State) : (report cause info s).answers = s.answers := rfl

@[simp] theorem report_busSeq (cause : Cause) (info : Word) (s : State) : (report cause info s).busSeq = s.busSeq := rfl

@[simp] theorem report_trace (cause : Cause) (info : Word) (s : State) : (report cause info s).trace = s.trace ++ [.err cause info] := rfl

/-! ### `raise` -/

@[simp] theorem raise_cfg (cause : Cause) (info : Word) (s : State) : (raise cause info s).cfg = s.cfg := rfl

@[simp] theorem raise_inited (cause : Cause) (info : Word) (s : State) : (raise cause info s).inited = s.inited := rfl

@[simp] theorem raise_blink (cause : Cause) (info : Word) (s : State) : (raise cause info s).blink = s.blink := rfl

@[simp] theorem raise_bright (cause : Cause) (info : Word) (s : State) : (raise cause info s).bright = s.bright := rfl

@[simp] theorem raise_frame (cause : Cause) (info : Word) (s : State) : (raise cause info s).frame = s.frame := rfl

@[simp] theorem raise_session (cause : Cause) (info : Word) (s : State) : (raise cause info s).session = s.session := rfl

@[simp] theorem raise_fatal (cause : Cause) (info : Word) (s : State) : (raise cause info s).fatal = s.fatal := rfl

@[simp] theorem raise_status (cause : Cause) (info : Word) (s : State) : (raise cause info s).status = setStatus (causeCode cause) s.status := rfl

@[simp] theorem raise_ser (cause : Cause) (info : Word) (s : State) : (raise cause info s).ser = s.ser := rfl

@[simp] theorem raise_device (cause : Cause) (info : Word) (s : State) : (raise cause info s).device = s.device := rfl

@[simp] theorem raise_lk (cause : Cause) (info : Word) (s : State) : (raise cause info s).lk = s.lk := rfl

@[simp] theorem raise_encOut (cause : Cause) (info : Word) (s : State) : (raise cause info s).encOut = s.encOut := rfl

@[simp] theorem raise_serOut (cause : Cause) (info : Word) (s : State) : (raise cause info s).serOut = s.serOut := rfl

@[simp] theorem raise_input (cause : Cause) (info : Word) (s : State) : (raise cause info s).input = s.input := rfl

@[simp] theorem raise_answers (cause : Cause) (info : Word) (s : State) : (raise cause info s).answers = s.answers := rfl

@[simp] theorem raise_busSeq (cause : Cause) (info : Word) (s : State) : (raise cause info s).busSeq = s.busSeq := rfl

@[simp] theorem raise_trace (cause : Cause) (info : Word) (s : State) : (raise cause info s).trace = s.trace ++ [.err cause info] := rfl

/-! ### `logUnmapped` -/

@[simp] theorem logUnmapped_cfg (c : Int) (s : State) : (logUnmapped c s).cfg = s.cfg := rfl

@[simp] theorem logUnmapped_inited (c : Int) (s : State) : (logUnmapped c s).inited = s.inited := rfl

@[simp] theorem logUnmapped_blink (c : Int) (s : State) : (logUnmapped c s).blink = s.blink := rfl

@[simp] theorem logUnmapped_bright (c : Int) (s : State) : (logUnmapped c s).bright = s.bright := rfl

@[simp] theorem logUnmapped_frame (c : Int) (s : State) : (logUnmapped c s).frame = s.frame := rfl

@[simp] theorem logUnmapped_session (c : Int) (s : State) : (logUnmapped c s).session = s.session := rfl

@[simp] theorem logUnmapped_fatal (c : Int) (s : State) : (logUnmapped c s).fatal = s.fatal := rfl

@[simp] theorem logUnmapped_status (c : Int) (s : State) : (logUnmapped c s).status = setStatus unmappedCode s.status := rfl

@[simp] theorem logUnmapped_ser (c : Int) (s : State) : (logUnmapped c s).ser = s.ser := rfl

@[simp] theorem logUnmapped_device (c : Int) (s : State) : (logUnmapped c s).device = s.device := rfl

@[simp] theorem logUnmapped_lk (c : Int) (s : State) : (logUnmapped c s).lk = s.lk := rfl

@[simp] theorem logUnmapped_encOut (c : Int) (s : State) : (logUnmapped c s).encOut = s.encOut := rfl

@[simp] theorem logUnmapped_serOut (c : Int) (s : State) : (logUnmapped c s).serOut = s.serOut := rfl

@[simp] theorem logUnmapped_input (c : Int) (s : State) : (logUnmapped c s).input = s.input := rfl

@[simp] theorem logUnmapped_answers (c : Int) (s : State) : (logUnmapped c s).answers = s.answers := rfl

@[simp] theorem logUnmapped_busSeq (c : Int) (s : State) : (logUnmapped c s).busSeq = s.busSeq := rfl

@[simp] theorem logUnmapped_trace (c : Int) (s : State) : (logUnmapped c s).trace = s.trace ++ [.log c] := rfl

/-! ### `sent` -/

@[simp] theorem sent_cfg (bytes : List Byte) (dev : Device → Device) (s : State) : (sent bytes dev s).cfg = s.cfg := rfl

@[simp] theorem sent_inited (bytes : List Byte) (dev : Device → Device) (s : State) : (sent bytes dev s).inited = s.inited := rfl

@[simp] theorem sent_blink (bytes : List Byte) (dev : Device → Device) (s : State) : (sent bytes dev s).blink = s.blink := rfl

@[simp] theorem sent_bright (bytes : List Byte) (dev : Device → Device) (s : State) : (sent bytes dev s).bright = s.bright := rfl

@[simp] theorem sent_frame (bytes : List Byte) (dev : Device → Device) (s : State) : (sent bytes dev s).frame = s.frame := rfl

@[simp] theorem sent_session (bytes : List Byte) (dev : Device → Device) (s : State) : (sent bytes dev s).session = s.session := rfl

@[simp] theorem sent_fatal (bytes : List Byte) (dev : Device → Device) (s : State) : (sent bytes dev s).fatal = s.fatal := rfl

@[simp] theorem sent_status (bytes : List Byte) (dev : Device → Device) (s : State) : (sent bytes dev s).status = answerStatus (nextAnswer s) s.status := rfl

@[simp] theorem sent_ser (bytes : List Byte) (dev : Device → Device) (s : State) : (sent bytes dev s).ser = .idle := rfl

@[simp] theorem sent_device (bytes : List Byte) (dev : Device → Device) (s : State) : (sent bytes dev s).device = dev s.device := rfl

@[simp] theorem sent_lk (bytes : List Byte) (dev : Device → Device) (s : State) : (sent bytes dev s).lk = s.lk := rfl

@[simp] theorem sent_encOut (bytes : List Byte) (dev : Device → Device) (s : State) : (sent bytes dev s).encOut = s.encOut := rfl

@[simp] theorem sent_serOut (bytes : List Byte) (dev : Device → Device) (s : State) : (sent bytes dev s).serOut = s.serOut := rfl

@[simp] theorem sent_input (bytes : List Byte) (dev : Device → Device) (s : State) : (sent bytes dev s).input = s.input := rfl

@[simp] theorem sent_answers (bytes : List Byte) (dev : Device → Device) (s : State) : (sent bytes dev s).answers = s.answers.tail := rfl

@[simp] theorem sent_busSeq (bytes : List Byte) (dev : Device → Device) (s : State) : (sent bytes dev s).busSeq = s.busSeq + 1 := rfl

@[simp] theorem sent_trace (bytes : List Byte) (dev : Device → Device) (s : State) : (sent bytes dev s).trace = s.trace ++ .busWrite s.cfg.devAddr bytes :: answerRecords (nextAnswer s) := rfl

/-! ### `sessionEnded` -/

@[simp] theorem sessionEnded_cfg (s : State) : (sessionEnded s).cfg = s.cfg := rfl

@[simp] theorem sessionEnded_inited (s : State) : (sessionEnded s).inited = s.inited := rfl

@[simp] theorem sessionEnded_blink (s : State) : (sessionEnded s).blink = s.blink := rfl

@[simp] theorem sessionEnded_bright (s : State) : (sessionEnded s).bright = s.bright := rfl

@[simp] theorem sessionEnded_frame (s : State) : (sessionEnded s).frame = s.frame := rfl

@[simp] theorem sessionEnded_session (s : State) : (sessionEnded s).session = none := rfl

@[simp] theorem sessionEnded_fatal (s : State) : (sessionEnded s).fatal = s.fatal := rfl

@[simp] theorem sessionEnded_status (s : State) : (sessionEnded s).status = s.status := rfl

@[simp] theorem sessionEnded_ser (s : State) : (sessionEnded s).ser = s.ser := rfl

@[simp] theorem sessionEnded_device (s : State) : (sessionEnded s).device = s.device := rfl

@[simp] theorem sessionEnded_lk (s : State) : (sessionEnded s).lk = s.lk := rfl

@[simp] theorem sessionEnded_encOut (s : State) : (sessionEnded s).encOut = s.encOut := rfl

@[simp] theorem sessionEnded_serOut (s : State) : (sessionEnded s).serOut = s.serOut := rfl

@[simp] theorem sessionEnded_input (s : State) : (sessionEnded s).input = s.input := rfl

@[simp] theorem sessionEnded_answers (s : State) : (sessionEnded s).answers = s.answers := rfl

@[simp] theorem sessionEnded_busSeq (s : State) : (sessionEnded s).busSeq = s.busSeq := rfl

@[simp] theorem sessionEnded_trace (s : State) : (sessionEnded s).trace = s.trace ++ (if s.active then [.timerCancel] else []) := rfl

/-! ### `resetRule` -/

@[simp] theorem resetRule_cfg (s : State) : (resetRule s).cfg = s.cfg := rfl

@[simp] theorem resetRule_inited (s : State) : (resetRule s).inited = false := rfl

@[simp] theorem resetRule_blink (s : State) : (resetRule s).blink = none := rfl

@[simp] theorem resetRule_bright (s : State) : (resetRule s).bright = none := rfl

@[simp] theorem resetRule_frame (s : State) : (resetRule s).frame = none := rfl

@[simp] theorem resetRule_session (s : State) : (resetRule s).session = none := rfl

@[simp] theorem resetRule_fatal (s : State) : (resetRule s).fatal = (!s.cfg.busPresent) := rfl

@[simp] theorem resetRule_status (s : State) : (resetRule s).status = (if s.cfg.busPresent then 0x00#8 else 0x02#8) := rfl

@[simp] theorem resetRule_ser (s : State) : (resetRule s).ser = .idle := rfl

@[simp] theorem resetRule_device (s : State) : (resetRule s).device = s.device := rfl

@[simp] theorem resetRule_lk (s : State) : (resetRule s).lk = s.lk := rfl

@[simp] theorem resetRule_encOut (s : State) : (resetRule s).encOut = s.encOut := rfl

@[simp] theorem resetRule_serOut (s : State) : (resetRule s).serOut = s.serOut := rfl

@[simp] theorem resetRule_input (s : State) : (resetRule s).input = s.input := rfl

@[simp] theorem resetRule_answers (s : State) : (resetRule s).answers = s.answers := rfl

@[simp] theorem resetRule_busSeq (s : State) : (resetRule s).busSeq = s.busSeq := rfl

@[simp] theorem resetRule_trace (s : State) : (resetRule s).trace = ((if s.active then [.timerCancel] else []) ++ (if s.cfg.busPresent then [] else [.err .noBus 0x0000#16])) := rfl

end Sys2Proof.Machine
end

