-- ==== Sys2Proof/Laws/Ops.lean ====
section
/-! SUPPORT. One lemma per shared operation that says everything it does, in the vocabulary of Safety.lean. -/

namespace Sys2Proof.Machine

/-- A frame has eight data bytes. -/
@[simp] theorem frameBytes_length (f : Frame) : (frameBytes f).length = 8 := rfl

/-- The register buffer is the start address and the data bytes. -/
theorem serialize_eq (f : Frame) : serialize f = startAddr :: frameBytes f := rfl

/-- `report` is what a refused command leaves. -/
theorem report_eq (cause : Cause) (info : Word) (s : State) : report cause info s = refused cause info s := rfl

/-- `raise` is what a refused command leaves. -/
theorem raise_eq (cause : Cause) (info : Word) (s : State) : raise cause info s = refused cause info s := rfl

/-- Consuming an answer: the records and the status bit of the answer, and nothing else. -/
theorem takeAnswer_eq (s : State) : takeAnswer s =
    { s with
      answers := s.answers.tail
      busSeq := s.busSeq + 1
      status := answerStatus (nextAnswer s) s.status
      trace := s.trace ++ answerRecords (nextAnswer s) } := by
  cases h : nextAnswer s with
  | ok => simp [takeAnswer, h, answerStatus, answerRecords]
  | fail e => simp [takeAnswer, h, answerStatus, answerRecords, report, setStatus, causeCode]

/-- A transaction leaves `sent` of its bytes. -/
theorem busWrite_eq (w : Wire) (s : State) (hidle : (serRun serFuel (wireStart s.cfg w)).2 = .idle) :
    busWrite w s = sent (wireBytes s.cfg w) (deviceTake w (wireBytes s.cfg w)) s := by
  simp only [busWrite, takeAnswer_eq, hidle]
  simp [sent, nextAnswer]

theorem busWrite_osc (s : State) :
    busWrite .osc s = sent [s.cfg.kOscOn] (fun d => { d with osc := some s.cfg.kOscOn }) s :=
  busWrite_eq .osc s rfl

theorem busWrite_blink (rate : BitVec 2) (s : State) :
    busWrite (.blink rate) s
      = sent [blinkByte s.cfg rate] (fun d => { d with blink := some (blinkByte s.cfg rate) }) s :=
  busWrite_eq (.blink rate) s rfl

theorem busWrite_bright (level : BitVec 4) (s : State) :
    busWrite (.bright level) s
      = sent [brightByte s.cfg level] (fun d => { d with bright := some (brightByte s.cfg level) }) s :=
  busWrite_eq (.bright level) s rfl

theorem busWrite_frame (f : Frame) (s : State) : busWrite (.frame f) s = sentFrame f s :=
  busWrite_eq (.frame f) s rfl

/-- `send_frame` is the transaction, then `F`. -/
theorem sendFrame_eq (f : Frame) (s : State) : sendFrame f s = { sentFrame f s with frame := some f } := by
  rw [sendFrame, busWrite_frame]

theorem sendOsc_eq (s : State) : sendOsc s =
    { sent [s.cfg.kOscOn] (fun d => { d with osc := some s.cfg.kOscOn }) s with inited := true } := by
  rw [sendOsc, busWrite_osc]

theorem sendBlink_eq (rate : BitVec 2) (s : State) : sendBlink rate s =
    { sent [blinkByte s.cfg rate] (fun d => { d with blink := some (blinkByte s.cfg rate) }) s with
      blink := some rate } := by
  rw [sendBlink, busWrite_blink]

theorem sendBright_eq (level : BitVec 4) (s : State) : sendBright level s =
    { sent [brightByte s.cfg level] (fun d => { d with bright := some (brightByte s.cfg level) }) s with
      bright := some level } := by
  rw [sendBright, busWrite_bright]

/-- `cancel_session` ends the session if there is one, else nothing. -/
theorem cancelSession_eq (s : State) : cancelSession s = sessionEnded s := by
  cases h : s.session with
  | none =>
    cases s
    simp only at h
    subst h
    simp [cancelSession, sessionEnded]
  | some x => simp [cancelSession, sessionEnded, State.active, h, emit]

/-- The log events of one list of slot characters. -/
theorem logSlot_eq (ch : Int) (s : State) : logSlot ch s =
    { s with
      status := if isUnmapped ch then s.status ||| 0x80#8 else s.status
      trace := s.trace ++ if isUnmapped ch then [.log ch] else [] } := by
  by_cases h : isUnmapped ch = true
  · simp only [logSlot, h, if_true]
    rfl
  · simp [logSlot, h]

/-- The log events of `encode`, as one update. -/
theorem encodeLogs_eq (text : List Int) (s : State) : encodeLogs text s = logged text s := by
  simp only [encodeLogs, logSlot_eq, logged, unmappedSlots]
  by_cases h0 : isUnmapped (slotChar text 0) = true <;> by_cases h1 : isUnmapped (slotChar text 1) = true <;>
    by_cases h2 : isUnmapped (slotChar text 2) = true <;> by_cases h3 : isUnmapped (slotChar text 3) = true <;>
    simp [h0, h1, h2, h3, List.filter, BitVec.or_assoc]

/-- A frame encoded and sent: its log events, its transaction, then `F`. -/
theorem sendText_eq (text : List Int) (dots : List Bool) (s : State) : sendText text dots s =
    { sentFrame (encodeFrame s.cfg text dots) (logged text s) with frame := some (encodeFrame s.cfg text dots) } := by
  rw [sendText, sendFrame_eq, encodeLogs_eq]

/-- What the admission of a command answers, case by case (R101). -/
theorem whenAdmitted_cases (op : Byte) (s : State) (rule : State → State) :
    (s.fatal = true ∧ whenAdmitted op s rule = refused .noBus (opcodeInfo op) s) ∨
    (s.fatal = false ∧ s.inited = false ∧ whenAdmitted op s rule = refused .noInit (opcodeInfo op) s) ∨
    (s.fatal = false ∧ s.inited = true ∧ whenAdmitted op s rule = rule s) := by
  cases hf : s.fatal <;> cases hi : s.inited <;> simp [whenAdmitted, hf, hi, raise_eq]

/-- What the admission of `INIT` or of an ill-formed packet answers, case by case (R101). -/
theorem whenAlive_cases (op : Byte) (s : State) (rule : State → State) :
    (s.fatal = true ∧ whenAlive op s rule = refused .noBus (opcodeInfo op) s) ∨
    (s.fatal = false ∧ whenAlive op s rule = rule s) := by
  cases hf : s.fatal <;> simp [whenAlive, hf, raise_eq]

/-- What a tick does, case by case (43_scroll_engine.md R134). -/
theorem tickRule_cases (s : State) :
    ((s.fatal = true ∨ s.session = none) ∧ tickRule s = s) ∨
    (∃ x, s.fatal = false ∧ s.session = some x ∧ x.total < x.step ∧ x.stop = true ∧ tickRule s = sessionEnded s) ∨
    (∃ x, s.fatal = false ∧ s.session = some x ∧ x.total < x.step ∧ x.stop = false ∧
      tickRule s = { s with session := some { x with step := 0 } }) ∨
    (∃ x, s.fatal = false ∧ s.session = some x ∧ x.step ≤ x.total ∧ tickRule s = tickSend x s) := by
  cases hf : s.fatal with
  | true => exact .inl ⟨.inl rfl, by simp [tickRule, hf]⟩
  | false =>
    cases hs : s.session with
    | none => exact .inl ⟨.inr rfl, by simp [tickRule, hf, hs]⟩
    | some x =>
      by_cases ht : x.total < x.step
      · cases hp : x.stop with
        | true =>
          refine .inr (.inl ⟨x, rfl, rfl, ht, hp, ?_⟩)
          simp [tickRule, hf, hs, tickSession, ht, hp, sessionEnded, emit, State.active]
        | false =>
          refine .inr (.inr (.inl ⟨x, rfl, rfl, ht, hp, ?_⟩))
          simp [tickRule, hf, hs, tickSession, ht, hp]
      · refine .inr (.inr (.inr ⟨x, rfl, rfl, by omega, ?_⟩))
        simp [tickRule, hf, hs, tickSession, ht]

/-- A session's text buffer has one entry per character. -/
@[simp] theorem textBuffer_length (text : List Int) (dots : List Bool) : (textBuffer text dots).length = text.length := by
  simp [textBuffer]

/-- A new session's length is its text's. -/
@[simp] theorem newSession_len (stop : Bool) (text : List Int) (dots : List Bool) (ivl : Word) :
    (newSession stop text dots ivl).len = text.length := textBuffer_length text dots

end Sys2Proof.Machine
end

