-- ==== Sys2Proof/Laws/Exec.lean ====
section
/-! SUPPORT. What an operation can do and what a step can do, said once: proofs about every operation go by cases on
`Effect`. -/

namespace Sys2Proof.Machine

/-- Every way an operation can end, with the state it leaves. -/
inductive Effect : Instr → State → State → Prop
  /-- A packet refused with its record. -/
  | refused (i : Instr) (s : State) (cause : Cause) (info : Word)
      (hi : i ≠ .reset ∧ i ≠ .tick ∧ cause ≠ .busErr) : Effect i s (refused cause info s)
  /-- Nothing happens: a skipped level, a tick without a session, a transaction in the fatal state. -/
  | same (i : Instr) (s : State) (hi : i ≠ .reset) : Effect i s s
  | init (level rate : Int) (s : State) (hf : s.fatal = false) : Effect (.init level rate) s
      { sent [brightByte s.cfg (clampLevel level)]
          (fun d => { d with bright := some (brightByte s.cfg (clampLevel level)) })
          (sent [blinkByte s.cfg (normRate rate)]
            (fun d => { d with blink := some (blinkByte s.cfg (normRate rate)) })
            (sent [s.cfg.kOscOn] (fun d => { d with osc := some s.cfg.kOscOn }) s)) with
        inited := true
        blink := some (normRate rate)
        bright := some (clampLevel level) }
  | setblink (rate : Int) (s : State) (hf : s.fatal = false) (hi : s.inited = true) : Effect (.setblink rate) s
      { sent [blinkByte s.cfg (normRate rate)]
          (fun d => { d with blink := some (blinkByte s.cfg (normRate rate)) }) s with
        blink := some (normRate rate) }
  | setbright (level : Int) (s : State) (hf : s.fatal = false) (hi : s.inited = true) : Effect (.setbright level) s
      { sent [brightByte s.cfg (clampLevel level)]
          (fun d => { d with bright := some (brightByte s.cfg (clampLevel level)) }) s with
        bright := some (clampLevel level) }
  | wrframe (f : Frame) (s : State) (hf : s.fatal = false) (hi : s.inited = true) : Effect (.wrframe f) s
      { sentFrame f (sessionEnded s) with frame := some f }
  | wrtext (text : List Int) (dots : List Bool) (s : State) (hf : s.fatal = false) (hi : s.inited = true) :
      Effect (.wrtext text dots) s
        { sentFrame (encodeFrame s.cfg text dots) (logged text (sessionEnded s)) with
          frame := some (encodeFrame s.cfg text dots) }
  | clear (s : State) (hf : s.fatal = false) (hi : s.inited = true) : Effect .clear s
      { sentFrame blankFrame (sessionEnded s) with frame := some blankFrame }
  | scroll (stop : Bool) (text : List Int) (dots : List Bool) (ivl : Word) (s : State) (hf : s.fatal = false)
      (hi : s.inited = true) (hl : text.length ≤ s.cfg.textMax) : Effect (.scroll stop text dots ivl) s
        { s with
          session := some (newSession stop text dots ivl)
          trace := s.trace ++ (if s.active then [.timerCancel] else []) ++ [.timerArm ivl] }
  | scrstop (s : State) (hf : s.fatal = false) (hi : s.inited = true) : Effect .scrstop s (sessionEnded s)
  | tickSend (x : Session) (s : State) (hf : s.fatal = false) (hx : s.session = some x) (hs : x.step ≤ x.total) :
      Effect .tick s
        { sentFrame (encodeFrame s.cfg (windowText x x.step) (windowDots x x.step))
            (logged (windowText x x.step) s) with
          frame := some (encodeFrame s.cfg (windowText x x.step) (windowDots x x.step))
          session := some { x with step := x.step + 1 } }
  | tickWrap (x : Session) (s : State) (hf : s.fatal = false) (hx : s.session = some x) (hs : x.total < x.step)
      (hp : x.stop = false) : Effect .tick s { s with session := some { x with step := 0 } }
  | tickEnd (x : Session) (s : State) (hf : s.fatal = false) (hx : s.session = some x) (hs : x.total < x.step)
      (hp : x.stop = true) : Effect .tick s (sessionEnded s)
  | reset (s : State) : Effect .reset s (resetRule s)
  | wOsc (s : State) (hf : s.fatal = false) : Effect .wOsc s
      (sent [s.cfg.kOscOn] (fun d => { d with osc := some s.cfg.kOscOn }) s)
  | wBlink (rate : BitVec 2) (s : State) (hf : s.fatal = false) : Effect (.wBlink rate) s
      (sent [blinkByte s.cfg rate] (fun d => { d with blink := some (blinkByte s.cfg rate) }) s)
  | wBright (level : BitVec 4) (s : State) (hf : s.fatal = false) : Effect (.wBright level) s
      (sent [brightByte s.cfg level] (fun d => { d with bright := some (brightByte s.cfg level) }) s)
  | wFrame (f : Frame) (s : State) (hf : s.fatal = false) : Effect (.wFrame f) s (sentFrame f s)
  | lookupGlyph (c : Int) (s : State) : Effect (.lookupGlyph c) s
      { s with lk := { code := c, mask := (lookup s.cfg c).1, unmapped := (lookup s.cfg c).2 } }
  | encodeText (text : List Int) (dots : List Bool) (s : State) : Effect (.encodeText text dots) s
      { logged text s with encOut := encodeFrame s.cfg text dots }
  | serializeFrame (f : Frame) (s : State) : Effect (.serializeFrame f) s { s with serOut := serialize f }

/-- An admitted command has its effect, a refused one its record. -/
theorem whenAdmitted_effect {i : Instr} (op : Byte) (s : State) (rule : State → State) (hi : i ≠ .reset ∧ i ≠ .tick)
    (h : s.fatal = false → s.inited = true → Effect i s (rule s)) : Effect i s (whenAdmitted op s rule) := by
  rcases whenAdmitted_cases op s rule with ⟨_, e⟩ | ⟨_, _, e⟩ | ⟨hf, hn, e⟩
  · exact e ▸ .refused i s _ _ ⟨hi.1, hi.2, by decide⟩
  · exact e ▸ .refused i s _ _ ⟨hi.1, hi.2, by decide⟩
  · exact e ▸ h hf hn

/-- The same for `INIT` and the ill-formed packets. -/
theorem whenAlive_effect {i : Instr} (op : Byte) (s : State) (rule : State → State) (hi : i ≠ .reset ∧ i ≠ .tick)
    (h : s.fatal = false → Effect i s (rule s)) : Effect i s (whenAlive op s rule) := by
  rcases whenAlive_cases op s rule with ⟨_, e⟩ | ⟨hf, e⟩
  · exact e ▸ .refused i s _ _ ⟨hi.1, hi.2, by decide⟩
  · exact e ▸ h hf

/-- A transaction by itself has its effect, or in the fatal state none. -/
theorem transact_effect {i : Instr} (w : Wire) (s : State) (hi : i ≠ .reset)
    (h : s.fatal = false → Effect i s (busWrite w s)) : Effect i s (transact w s) := by
  cases hf : s.fatal with
  | true =>
    have : transact w s = s := by simp [transact, hf]
    exact this.symm ▸ .same i s hi
  | false =>
    have : transact w s = busWrite w s := by simp [transact, hf]
    exact this.symm ▸ h hf

theorem initRule_eq (level rate : Int) (s : State) : initRule level rate s =
    { sent [brightByte s.cfg (clampLevel level)]
        (fun d => { d with bright := some (brightByte s.cfg (clampLevel level)) })
        (sent [blinkByte s.cfg (normRate rate)]
          (fun d => { d with blink := some (blinkByte s.cfg (normRate rate)) })
          (sent [s.cfg.kOscOn] (fun d => { d with osc := some s.cfg.kOscOn }) s)) with
      inited := true
      blink := some (normRate rate)
      bright := some (clampLevel level) } := by
  simp only [initRule, sendBright_eq, sendBlink_eq, sendOsc_eq]
  simp [sent, nextAnswer]

/-- Whatever an operation answers is one of its effects. -/
theorem exec_effect {i : Instr} {s t : State} (h : exec i s = .next t) : Effect i s t := by
  cases i with
  | init level rate =>
    cases h
    refine whenAlive_effect _ _ _ (by simp) fun hf => ?_
    rw [initRule_eq]
    exact .init level rate s hf
  | setblink rate =>
    cases h
    refine whenAdmitted_effect _ _ _ (by simp) fun hf hi => ?_
    rw [sendBlink_eq]
    exact .setblink rate s hf hi
  | setbright level =>
    cases h
    refine whenAdmitted_effect _ _ _ (by simp) fun hf hi => ?_
    unfold setbrightRule
    split
    · exact .same _ s (by simp)
    · rw [sendBright_eq]
      exact .setbright level s hf hi
  | wrframe f =>
    cases h
    refine whenAdmitted_effect _ _ _ (by simp) fun hf hi => ?_
    rw [sendFrame_eq, cancelSession_eq]
    exact .wrframe f s hf hi
  | wrtext text dots =>
    cases h
    refine whenAdmitted_effect _ _ _ (by simp) fun hf hi => ?_
    rw [sendText_eq, cancelSession_eq]
    exact .wrtext text dots s hf hi
  | clear =>
    cases h
    refine whenAdmitted_effect _ _ _ (by simp) fun hf hi => ?_
    rw [sendFrame_eq, cancelSession_eq]
    exact .clear s hf hi
  | scroll stop text dots ivl =>
    cases h
    refine whenAdmitted_effect _ _ _ (by simp) fun hf hi => ?_
    unfold scrollRule
    split
    · exact .refused _ s _ _ (by simp)
    · rw [cancelSession_eq]
      exact .scroll stop text dots ivl s hf hi (by omega)
  | scrstop =>
    cases h
    refine whenAdmitted_effect _ _ _ (by simp) fun hf hi => ?_
    rw [cancelSession_eq]
    exact .scrstop s hf hi
  | reservedOpcode op =>
    cases h
    exact whenAlive_effect _ _ _ (by simp) fun _ => .refused _ s _ _ (by simp)
  | emptyPacket =>
    cases h
    exact whenAlive_effect _ _ _ (by simp) fun _ => .refused _ s _ _ (by simp)
  | tick =>
    cases h
    rcases tickRule_cases s with ⟨_, e⟩ | ⟨x, hf, hx, hs, hp, e⟩ | ⟨x, hf, hx, hs, hp, e⟩ | ⟨x, hf, hx, hs, e⟩ <;> rw [e]
    · exact .same _ s (by simp)
    · exact .tickEnd x s hf hx hs hp
    · exact .tickWrap x s hf hx hs hp
    · rw [tickSend, sendText_eq]
      exact .tickSend x s hf hx hs
  | reset =>
    cases h
    exact .reset s
  | wOsc =>
    cases h
    exact transact_effect _ _ (by simp) fun hf => by rw [busWrite_osc]; exact .wOsc s hf
  | wBlink rate =>
    cases h
    exact transact_effect _ _ (by simp) fun hf => by rw [busWrite_blink]; exact .wBlink rate s hf
  | wBright level =>
    cases h
    exact transact_effect _ _ (by simp) fun hf => by rw [busWrite_bright]; exact .wBright level s hf
  | wFrame f =>
    cases h
    exact transact_effect _ _ (by simp) fun hf => by rw [busWrite_frame]; exact .wFrame f s hf
  | lookupGlyph c =>
    cases h
    exact .lookupGlyph c s
  | encodeText text dots =>
    cases h
    rw [encodeLogs_eq]
    exact .encodeText text dots s
  | serializeFrame f =>
    cases h
    exact .serializeFrame f s

/-- No operation touches the input still to come. -/
theorem effect_input {i : Instr} {s t : State} (h : Effect i s t) : t.input = s.input := by
  cases h <;> rfl

/-- What a step can do: wait, run the operation its oldest event stands for, or refuse an ill-formed packet. -/
theorem step_cases {s t : State} (h : step s = .next t) :
    (s.input = [] ∧ t = s) ∨
    (∃ e rest i, s.input = e :: rest ∧ fetch e = .instr i ∧ Effect i { s with input := rest } t) ∨
    (∃ e rest cause info, s.input = e :: rest ∧ e ≠ .reset ∧ cause ≠ .busErr ∧
      t = refused cause info { s with input := rest }) := by
  unfold step at h
  split at h
  · cases h
    exact .inl ⟨by assumption, rfl⟩
  · rename_i e rest hs
    split at h
    · exact .inr (.inl ⟨e, rest, _, hs, by assumption, exec_effect h⟩)
    · rename_i op hd
      cases h
      refine .inr (.inr ⟨e, rest, ?_⟩)
      have he : e ≠ .reset := by
        rintro rfl
        cases hd
      rcases whenAlive_cases op { s with input := rest } (raise .malformed (opcodeInfo op)) with ⟨_, e⟩ | ⟨_, e⟩
      · exact ⟨.noBus, opcodeInfo op, hs, he, by decide, e⟩
      · exact ⟨.malformed, opcodeInfo op, hs, he, by decide, e⟩

end Sys2Proof.Machine
end

