-- ==== Sys2Proof/Laws/Trace.lean ====
section
/-! SUPPORT. What one transaction, one refused command, one log and one session's end add to what an output trace says:
its bus transactions, its outstanding timer, its records. -/

namespace Sys2Proof.Machine

/-! ### Bus transactions -/

theorem busBytes_append (a b : List Output) : busBytes (a ++ b) = busBytes a ++ busBytes b :=
  List.filterMap_append

theorem busBytes_answer (a : BusAnswer) : busBytes (answerRecords a) = [] := by
  cases a <;> rfl

/-- A transaction adds its bytes. -/
theorem busBytes_sent (bytes : List Byte) (dev : Device → Device) (s : State) :
    busBytes (sent bytes dev s).trace = busBytes s.trace ++ [bytes] := by
  have cons : ∀ (a : BitVec 7) (b : List Byte) (r : List Output), busBytes (.busWrite a b :: r) = b :: busBytes r :=
    fun _ _ _ => rfl
  rw [sent, busBytes_append, cons, busBytes_answer]

theorem busBytes_refused (cause : Cause) (info : Word) (s : State) :
    busBytes (refused cause info s).trace = busBytes s.trace := by
  rw [refused, busBytes_append]
  exact List.append_nil _

theorem busBytes_sessionEnded (s : State) : busBytes (sessionEnded s).trace = busBytes s.trace := by
  rw [sessionEnded, busBytes_append]
  cases s.active <;> exact List.append_nil _

theorem busBytes_logged (text : List Int) (s : State) : busBytes (logged text s).trace = busBytes s.trace := by
  rw [logged, busBytes_append]
  simp [busBytes]

/-! ### The timer -/

/-- How one output event changes whether a timer is armed. -/
def armedAfter (armed : Bool) : Output → Bool
  | .timerArm _ => true
  | .timerCancel => false
  | .busWrite _ _ => armed
  | .log _ => armed
  | .err _ _ => armed

theorem timerArmed_eq (t : List Output) : timerArmed t = t.foldl armedAfter false := by
  have step : (fun (armed : Bool) (e : Output) =>
      match e with
      | .timerArm _ => true
      | .timerCancel => false
      | _ => armed) = armedAfter := by
    funext armed e
    cases e <;> rfl
  exact congrArg (fun f => t.foldl f false) step

theorem timerArmed_append (a b : List Output) : timerArmed (a ++ b) = b.foldl armedAfter (timerArmed a) := by
  rw [timerArmed_eq, List.foldl_append, timerArmed_eq]

theorem timerArmed_sent (bytes : List Byte) (dev : Device → Device) (s : State) :
    timerArmed (sent bytes dev s).trace = timerArmed s.trace := by
  rw [sent, timerArmed_append, List.foldl_cons]
  cases nextAnswer s <;> rfl

theorem timerArmed_refused (cause : Cause) (info : Word) (s : State) :
    timerArmed (refused cause info s).trace = timerArmed s.trace := by
  rw [refused, timerArmed_append]
  rfl

theorem timerArmed_logged (text : List Int) (s : State) : timerArmed (logged text s).trace = timerArmed s.trace := by
  rw [logged, timerArmed_append]
  induction unmappedSlots text with
  | nil => rfl
  | cons c rest ih => exact ih

/-- Where the timer mirrors the session, a session's end leaves none armed. -/
theorem timerArmed_sessionEnded (s : State) (h : timerArmed s.trace = s.active) :
    timerArmed (sessionEnded s).trace = false := by
  rw [sessionEnded, timerArmed_append, h]
  cases hs : s.active <;> rfl

/-! ### Records -/

theorem hasKind_append (k : Nat) (a b : List Output) : hasKind k (a ++ b) = (hasKind k a || hasKind k b) :=
  List.any_append

/-- Setting one bit of `status`. -/
theorem setStatus_bit (status : BitVec 8) (k j : Nat) (hk : k < 8) (hj : j < 8) :
    (setStatus j status).getLsbD k = (status.getLsbD k || decide (k = j)) := by
  rw [setStatus, BitVec.getLsbD_or]
  congr 1
  interval_cases k <;> interval_cases j <;> rfl

end Sys2Proof.Machine
end

