-- ==== Sys2Proof/Machine/Assembler.lean ====
section
/-! DEFINITION. The listing form of commands and events (30_encoding.md R74) and its defaults (R75). It is not part of
the block: a listing only names a sequence of input events. DESIGN CHOICE (log entry 12), where R74 leaves it unsaid:
blanks between the parts of a line are skipped, a hexadecimal `int` may carry a sign and keeps the decimal range, and
`count` is an unsigned decimal or `0x` hexadecimal number. -/

namespace Sys2Proof.Machine

/-- One line of a listing, with the operands R75 lets a line leave out. -/
inductive Stmt where
  | init (level rate : Option Int)
  | setblink (rate : Int)
  | setbright (level : Int)
  | wrframe (slots : Frame)
  | wrtext (text : List Int) (dots : Option (List Bool))
  | clear
  | scroll (stop : Bool) (text : List Int) (dots : Option (List Bool)) (ivl : Option Word)
  | scrstop
  | tick (count : Option Nat)
  | reset
deriving DecidableEq, Repr

/-- The packet of a command as an input event; `none` for operands no packet can carry. -/
def commandEvent (i : Instr) : Option (List Event) :=
  if i.wellFormed then (encode i).map fun p => [.cmd p] else none

/-- The events a line stands for, with the defaults of R75. -/
def assemble (c : Config) : Stmt → Option (List Event)
  | .init level rate =>
    commandEvent (.init (level.getD c.initLevelDefault.toNat) (rate.getD c.initRateDefault.toNat))
  | .setblink rate => commandEvent (.setblink rate)
  | .setbright level => commandEvent (.setbright level)
  | .wrframe f => commandEvent (.wrframe f)
  | .wrtext text dots => commandEvent (.wrtext text (dots.getD []))
  | .clear => commandEvent .clear
  | .scroll stop text dots ivl =>
    commandEvent (.scroll stop text (dots.getD []) (ivl.getD c.scrollIntervalDefault))
  | .scrstop => commandEvent .scrstop
  | .tick count => some (List.replicate (count.getD 1) .tick)
  | .reset => some [.reset]

/-! ### Reading a line (R74) -/

/-- The characters from the first one that is no blank. -/
def skipBlanks : List Char → List Char
  | [] => []
  | ch :: rest => if ch.toNat = 32 ∨ ch.toNat = 9 then skipBlanks rest else ch :: rest

/-- The value of a hexadecimal digit. -/
def hexDigit (ch : Char) : Option Nat :=
  let n := ch.toNat
  if 48 ≤ n ∧ n ≤ 57 then some (n - 48)
  else if 65 ≤ n ∧ n ≤ 70 then some (n - 55)
  else if 97 ≤ n ∧ n ≤ 102 then some (n - 87)
  else none

/-- The value of a decimal digit. -/
def decDigit (ch : Char) : Option Nat :=
  if 48 ≤ ch.toNat ∧ ch.toNat ≤ 57 then some (ch.toNat - 48) else none

/-- A run of digits in a base, added to what was read before; the flag says whether a digit was read. -/
def readDigits (base : Nat) (digit : Char → Option Nat) : Bool → Nat → List Char → Option (Nat × List Char)
  | seen, acc, [] => if seen then some (acc, []) else none
  | seen, acc, ch :: rest =>
    match digit ch with
    | some d => readDigits base digit true (base * acc + d) rest
    | none => if seen then some (acc, ch :: rest) else none

/-- An unsigned number, decimal or `0x` hexadecimal. -/
def readNat (s : List Char) : Option (Nat × List Char) :=
  match skipBlanks s with
  | '0' :: 'x' :: rest => readDigits 16 hexDigit false 0 rest
  | rest => readDigits 10 decDigit false 0 rest

/-- `int` of R74: optionally signed, in -32768..32767. DESIGN CHOICE (log entry 12): R74 names the sign and the range
with the decimal form only; the hexadecimal form takes both as well, so `-0x5` is -5. -/
def readInt (s : List Char) : Option (Int × List Char) :=
  let signed : Option (Int × List Char) :=
    match skipBlanks s with
    | '-' :: rest => (readNat rest).map fun (n, t) => (-(n : Int), t)
    | '+' :: rest => (readNat rest).map fun (n, t) => ((n : Int), t)
    | rest => (readNat rest).map fun (n, t) => ((n : Int), t)
  match signed with
  | some (v, t) => if fitsInt16 v then some (v, t) else none
  | none => none

/-- `u16` of R74, in 0..65535. -/
def readU16 (s : List Char) : Option (Word × List Char) :=
  match readNat s with
  | some (n, t) => if n ≤ 65535 then some (BitVec.ofNat 16 n, t) else none
  | none => none

/-- One given character after blanks. -/
def expectChar (code : Nat) (s : List Char) : Option (List Char) :=
  match skipBlanks s with
  | [] => none
  | ch :: rest => if ch.toNat = code then some rest else none

/-- The rest of a quoted text after its opening quote (34): a printable character other than the quote and the
backslash stands for its code, `\xHHHH` for the 16-bit pattern `HHHH` read by `sext_16`. -/
def readQuoted : List Char → Option (List Int × List Char)
  | [] => none
  | '\\' :: 'x' :: a :: b :: c :: d :: rest =>
    match hexDigit a, hexDigit b, hexDigit c, hexDigit d, readQuoted rest with
    | some a, some b, some c, some d, some (text, t) =>
      some ((BitVec.ofNat 16 (4096 * a + 256 * b + 16 * c + d)).toInt :: text, t)
    | _, _, _, _, _ => none
  | ch :: rest =>
    if ch.toNat = 34 then some ([], rest)
    else if 32 ≤ ch.toNat ∧ ch.toNat ≤ 126 ∧ ch.toNat ≠ 92 then
      (readQuoted rest).map fun (text, t) => ((ch.toNat : Int) :: text, t)
    else none

/-- The rest of a list of codes after a code: the closing brace (125), or a comma (44) and a code; `fuel` bounds the
number of codes. -/
def readCodes : Nat → List Char → Option (List Int × List Char)
  | 0, _ => none
  | fuel + 1, s =>
    match expectChar 125 s with
    | some t => some ([], t)
    | none =>
      match expectChar 44 s with
      | none => none
      | some t =>
        match readInt t with
        | none => none
        | some (v, u) => (readCodes fuel u).map fun (vs, w) => (v :: vs, w)

/-- `text` of R74: quoted, or a list of codes between braces (123, 125). -/
def readText (s : List Char) : Option (List Int × List Char) :=
  match expectChar 34 s with
  | some t => readQuoted t
  | none =>
    match expectChar 123 s with
    | none => none
    | some t =>
      match expectChar 125 t with
      | some u => some ([], u)
      | none =>
        match readInt t with
        | none => none
        | some (v, u) => (readCodes u.length u).map fun (vs, w) => (v :: vs, w)

/-- The rest of `dots` after its opening bracket: flags, flag 0 first, up to the closing bracket (93). -/
def readFlags : List Char → Option (List Bool × List Char)
  | [] => none
  | ch :: rest =>
    if ch.toNat = 93 then some ([], rest)
    else if ch.toNat = 48 then (readFlags rest).map fun (ds, t) => (false :: ds, t)
    else if ch.toNat = 49 then (readFlags rest).map fun (ds, t) => (true :: ds, t)
    else none

/-- `dots` of R74, between brackets (91, 93). -/
def readDots (s : List Char) : Option (List Bool × List Char) := (expectChar 91 s).bind readFlags

/-- An operand after a comma (44), or nothing where no comma follows. -/
def optionalOperand {α : Type} (read : List Char → Option (α × List Char)) (s : List Char) :
    Option (Option α × List Char) :=
  match expectChar 44 s with
  | none => some (none, s)
  | some t => (read t).map fun (v, u) => (some v, u)

/-- An operand, or nothing where the line or its comment begins at once. -/
def optionalFirst {α : Type} (read : List Char → Option (α × List Char)) (s : List Char) :
    Option (Option α × List Char) :=
  match skipBlanks s with
  | [] => some (none, [])
  | ';' :: rest => some (none, ';' :: rest)
  | t => (read t).map fun (v, u) => (some v, u)

/-- Whether a character may stand in a mnemonic: `A`..`Z`. -/
def isUpper (ch : Char) : Bool := decide (65 ≤ ch.toNat) && decide (ch.toNat ≤ 90)

/-- The operands of `INIT`. -/
def readInit (s : List Char) : Option (Stmt × List Char) :=
  match optionalFirst readInt s with
  | some (some level, t) => (optionalOperand readInt t).map fun (rate, u) => (.init (some level) rate, u)
  | some (none, t) => some (.init none none, t)
  | none => none

/-- The operands of `WRFRAME`. -/
def readWrframe (s : List Char) : Option (Stmt × List Char) :=
  match readU16 s with
  | none => none
  | some (a, s) =>
    match (expectChar 44 s).bind readU16 with
    | none => none
    | some (b, s) =>
      match (expectChar 44 s).bind readU16 with
      | none => none
      | some (c, s) =>
        match (expectChar 44 s).bind readU16 with
        | none => none
        | some (d, s) => some (.wrframe ⟨a, b, c, d⟩, s)

/-- The operands of `WRTEXT`. -/
def readWrtext (s : List Char) : Option (Stmt × List Char) :=
  match readText s with
  | none => none
  | some (text, t) => (optionalOperand readDots t).map fun (dots, u) => (.wrtext text dots, u)

/-- The operands of `SCROLL` after its mode. -/
def readScrollText (stop : Bool) (s : List Char) : Option (Stmt × List Char) :=
  match (expectChar 44 s).bind readText with
  | none => none
  | some (text, t) =>
    match optionalOperand readDots t with
    | none => none
    | some (none, u) => some (.scroll stop text none none, u)
    | some (some dots, u) =>
      (optionalOperand readU16 u).map fun (ivl, w) => (.scroll stop text (some dots) ivl, w)

/-- The operands of `SCROLL`, the mode first (`STOP` sets `flags` bit 0, `LOOP` clears it). -/
def readScroll (s : List Char) : Option (Stmt × List Char) :=
  match skipBlanks s with
  | 'L' :: 'O' :: 'O' :: 'P' :: t => readScrollText false t
  | 'S' :: 'T' :: 'O' :: 'P' :: t => readScrollText true t
  | _ => none

/-- The operand of `TICK`. DESIGN CHOICE (log entry 12): R74 names `count` and does not define its form, R75 says only
`k` ≥ 0; it is read as an unsigned decimal or `0x` hexadecimal number. -/
def readTick (s : List Char) : Option (Stmt × List Char) :=
  (optionalFirst readNat s).map fun (count, t) => (.tick count, t)

/-- `stmt` of R74: the mnemonic, then its operands. -/
def readStmt (s : List Char) : Option (Stmt × List Char) :=
  let word := s.takeWhile isUpper
  let rest := s.dropWhile isUpper
  if word = ['I', 'N', 'I', 'T'] then readInit rest
  else if word = ['S', 'E', 'T', 'B', 'L', 'I', 'N', 'K'] then (readInt rest).map fun (v, t) => (.setblink v, t)
  else if word = ['S', 'E', 'T', 'B', 'R', 'I', 'G', 'H', 'T'] then
    (readInt rest).map fun (v, t) => (.setbright v, t)
  else if word = ['W', 'R', 'F', 'R', 'A', 'M', 'E'] then readWrframe rest
  else if word = ['W', 'R', 'T', 'E', 'X', 'T'] then readWrtext rest
  else if word = ['C', 'L', 'E', 'A', 'R'] then some (.clear, rest)
  else if word = ['S', 'C', 'R', 'O', 'L', 'L'] then readScroll rest
  else if word = ['S', 'C', 'R', 'S', 'T', 'O', 'P'] then some (.scrstop, rest)
  else if word = ['T', 'I', 'C', 'K'] then readTick rest
  else if word = ['R', 'E', 'S', 'E', 'T'] then some (.reset, rest)
  else none

/-- `line` of R74: a statement, an empty line or a comment (`some none`); `none` for what is no line. -/
def readLine (s : List Char) : Option (Option Stmt) :=
  match skipBlanks s with
  | [] => some none
  | ';' :: _ => some none
  | t =>
    match readStmt t with
    | none => none
    | some (stmt, rest) =>
      match skipBlanks rest with
      | [] => some (some stmt)
      | ';' :: _ => some (some stmt)
      | _ => none

end Sys2Proof.Machine
end

