-- ==== Sys2Proof/Tests/Slice0.lean ====
section
/-! SUPPORT. Small tests of single steps, with expected values from spec/95_test_vectors.md and the rules, and for every
obligation with hypotheses a named witness that meets them. -/

namespace Sys2Proof.Tests

open Sys2Proof.Machine

set_option Elab.async false

/-! ### Helpers -/

/-- G1, codes 32 to 55. -/
def refRow32 : List Word :=
  [0x0000#16, 0x0006#16, 0x0220#16, 0x12CE#16, 0x12ED#16, 0x0C24#16, 0x235D#16, 0x0400#16,
   0x2400#16, 0x0900#16, 0x3FC0#16, 0x12C0#16, 0x0800#16, 0x00C0#16, 0x4000#16, 0x0C00#16,
   0x0C3F#16, 0x0006#16, 0x00DB#16, 0x008F#16, 0x00E6#16, 0x2069#16, 0x00FD#16, 0x0007#16]

/-- G1, codes 56 to 79. -/
def refRow56 : List Word :=
  [0x00FF#16, 0x00EF#16, 0x1200#16, 0x0A00#16, 0x2400#16, 0x00C8#16, 0x0900#16, 0x1083#16,
   0x02BB#16, 0x00F7#16, 0x128F#16, 0x0039#16, 0x120F#16, 0x00F9#16, 0x0071#16, 0x00BD#16,
   0x00F6#16, 0x1209#16, 0x001E#16, 0x2470#16, 0x0038#16, 0x0536#16, 0x2136#16, 0x003F#16]

/-- G1, codes 80 to 103. -/
def refRow80 : List Word :=
  [0x00F3#16, 0x203F#16, 0x20F3#16, 0x00ED#16, 0x1201#16, 0x003E#16, 0x0C30#16, 0x2836#16,
   0x2D00#16, 0x1500#16, 0x0C09#16, 0x0039#16, 0x2100#16, 0x000F#16, 0x0C03#16, 0x0008#16,
   0x0100#16, 0x1058#16, 0x2078#16, 0x00D8#16, 0x088E#16, 0x0858#16, 0x0071#16, 0x048E#16]

/-- G1, codes 104 to 127. -/
def refRow104 : List Word :=
  [0x1070#16, 0x1000#16, 0x000E#16, 0x3600#16, 0x0030#16, 0x10D4#16, 0x1050#16, 0x00DC#16,
   0x0170#16, 0x0486#16, 0x0050#16, 0x2088#16, 0x0078#16, 0x001C#16, 0x2004#16, 0x2814#16,
   0x28C0#16, 0x200C#16, 0x0848#16, 0x0949#16, 0x1200#16, 0x2489#16, 0x0520#16, 0x3FFF#16]

/-- A table for tests: G1 for 32 to 127, and zero words for 0 to 31 (G1's own suggestion). -/
def refRom : Vector Word 128 :=
  Vector.ofFn fun i => (List.replicate 32 0x0000#16 ++ refRow32 ++ refRow56 ++ refRow80 ++ refRow104).getD i.val 0x0000#16

/-- The defaults of R6 with that table. -/
def cfg : Config := { Config.default with rom := refRom }

/-- Just after reset. -/
def start : State := State.powerOn cfg

/-- Just after reset, the bus answering `ok` to three transactions. -/
def fresh : State := { start with answers := [.ok, .ok, .ok] }

/-- Just after reset with no bus. -/
def dead : State := State.powerOn { cfg with busPresent := false }

/-- After `INIT 15, 0` (95_test_vectors.md, "after `INIT`"), the bus answering `ok`. -/
def ready : State :=
  { start with
    inited := true
    blink := some 0#2
    bright := some 15#4
    device := { osc := some 0x21#8, blink := some 0x81#8, bright := some 0xEF#8, ram := [] }
    answers := List.replicate 8 .ok
    trace := [.busWrite 0x70#7 [0x21#8], .busWrite 0x70#7 [0x81#8], .busWrite 0x70#7 [0xEF#8]] }

/-- The session of V43-1, "HI" with a decimal point on 'I', at a step. -/
def hi (stop : Bool) (step : Nat) : Session :=
  { tb := [(72, false), (73, true)], ivl := 500#16, stop := stop, step := step, total := 6 }

/-- After `INIT` with that session running, before its first tick has sent anything. -/
def running (stop : Bool) (step : Nat) : State :=
  { ready with session := some (hi stop step), trace := ready.trace ++ [.timerArm 500#16] }

/-- One step with one event pending. -/
def present (e : Event) (s : State) : Result := step { s with input := [e] }

/-- A next state seen through a function. -/
def see {α : Type} (f : State → α) : Result → Option α
  | .next t => some (f t)
  | .fault _ => none
  | .refused _ => none

/-- What a step adds to the trace. -/
def added (s : State) (r : Result) : Option (List Output) := see (fun t => t.trace.drop s.trace.length) r

/-- A transaction to the device. -/
def tx (bytes : List Byte) : Output := .busWrite 0x70#7 bytes

/-- Nine 0x00 bytes. -/
def blank : List Byte := List.replicate 9 0x00#8

/-! ### WellFormed: one ill-formed term per check -/

theorem test_wf_refuses_init_level : (Instr.init 32768 0).wellFormed = false := by decide
theorem test_wf_refuses_init_rate : (Instr.init 0 (-32769)).wellFormed = false := by decide
theorem test_wf_refuses_setblink : (Instr.setblink 32768).wellFormed = false := by decide
theorem test_wf_refuses_setbright : (Instr.setbright (-32769)).wellFormed = false := by decide
theorem test_wf_refuses_wrtext_count : (Instr.wrtext (List.replicate 256 65) []).wellFormed = false := by decide +kernel
theorem test_wf_refuses_wrtext_flags : (Instr.wrtext [] (List.replicate 256 true)).wellFormed = false := by decide +kernel
theorem test_wf_refuses_wrtext_code : (Instr.wrtext [65, 32768] []).wellFormed = false := by decide
theorem test_wf_refuses_scroll_count :
    (Instr.scroll true (List.replicate 65536 65) [] 0#16).wellFormed = false := by
  rw [Instr.wellFormed, List.length_replicate]
  rfl
theorem test_wf_refuses_scroll_flags :
    (Instr.scroll true [] (List.replicate 65536 true) 0#16).wellFormed = false := by
  rw [Instr.wellFormed, List.length_replicate]
  rfl
theorem test_wf_refuses_scroll_code : (Instr.scroll true [-32769] [] 0#16).wellFormed = false := by decide
theorem test_wf_refuses_known_opcode : (Instr.reservedOpcode 0x08#8).wellFormed = false := by decide

/-! ### Decoding: words written out from the layouts R55 to R62 -/

/-- R52: 0x8000 is -32768, 0x7FFF is 32767 (R200). -/
theorem test_decode_init_extremes :
    decode [0x01#8, 0x00#8, 0x80#8, 0xFF#8, 0x7F#8] = .instr (.init (-32768) 32767) := by decide
/-- 95 assembler table: `SETBLINK 2` is `02 02 00`. -/
theorem test_decode_setblink : decode [0x02#8, 0x02#8, 0x00#8] = .instr (.setblink 2) := by decide
/-- V30-20. -/
theorem test_decode_setbright : decode [0x03#8, 0xFB#8, 0xFF#8] = .instr (.setbright (-5)) := by decide
/-- V30-21. -/
theorem test_decode_wrframe :
    decode [0x04#8, 0xF7#8, 0x00#8, 0x00#8, 0x40#8, 0x00#8, 0x00#8, 0x01#8, 0x80#8]
      = .instr (.wrframe ⟨0x00F7#16, 0x4000#16, 0x0000#16, 0x8001#16⟩) := by decide
/-- V30-19: flag byte 0x38 is bits 3, 4, 5. -/
theorem test_decode_wrtext :
    decode [0x05#8, 0x05#8, 0x06#8, 0x31#8, 0x00#8, 0x2C#8, 0x01#8, 0xFF#8, 0xFF#8, 0x32#8, 0x00#8, 0x41#8, 0x00#8, 0x38#8]
      = .instr (.wrtext [49, 300, -1, 50, 65] [false, false, false, true, true, true]) := by decide
/-- V30-13: nine flags take two bytes. -/
theorem test_decode_wrtext_nine_flags :
    decode [0x05#8, 0x00#8, 0x09#8, 0xFF#8, 0x01#8] = .instr (.wrtext [] (List.replicate 9 true)) := by decide
theorem test_decode_clear : decode [0x06#8] = .instr .clear := by decide
/-- V30-18. -/
theorem test_decode_scroll :
    decode [0x07#8, 0x01#8, 0xF4#8, 0x01#8, 0x02#8, 0x00#8, 0x02#8, 0x00#8, 0x48#8, 0x00#8, 0x49#8, 0x00#8, 0x02#8]
      = .instr (.scroll true [72, 73] [false, true] 500#16) := by decide
theorem test_decode_scrstop : decode [0x08#8] = .instr .scrstop := by decide
/-- V30-5: the length of a reserved opcode's packet is not looked at. -/
theorem test_decode_reserved : decode [0xFF#8, 0x01#8] = .instr (.reservedOpcode 0xFF#8) := by decide
/-- V30-6 to V30-12, V30-14 to V30-17: the refused packets. -/
theorem test_decode_malformed :
    decode [0x01#8, 0x0F#8, 0x00#8] = .malformed 0x01#8 ∧ decode [0x02#8, 0x01#8] = .malformed 0x02#8 ∧
    decode [0x03#8, 0x14#8, 0x00#8, 0x00#8] = .malformed 0x03#8 ∧ decode [0x04#8, 0x00#8, 0x00#8] = .malformed 0x04#8 ∧
    decode [0x05#8, 0x01#8] = .malformed 0x05#8 ∧ decode [0x05#8, 0x01#8, 0x00#8] = .malformed 0x05#8 ∧
    decode [0x05#8, 0x00#8, 0x09#8] = .malformed 0x05#8 ∧ decode [0x06#8, 0x00#8] = .malformed 0x06#8 ∧
    decode [0x08#8, 0x00#8] = .malformed 0x08#8 ∧
    decode [0x07#8, 0x02#8, 0xF4#8, 0x01#8, 0x00#8, 0x00#8, 0x00#8, 0x00#8] = .malformed 0x07#8 ∧
    decode [0x07#8, 0x00#8, 0xF4#8, 0x01#8, 0x01#8, 0x00#8, 0x00#8, 0x00#8] = .malformed 0x07#8 := by decide
/-- R68 to R71 with R6's defaults: 0x21; 0x87 is rate 3; 0xE0 is level 0; a frame, low byte first. -/
theorem test_decode_wire :
    decodeWire Config.default [0x21#8] = some .wOsc ∧ decodeWire Config.default [0x87#8] = some (.wBlink 3#2) ∧
    decodeWire Config.default [0xE0#8] = some (.wBright 0#4) ∧
    decodeWire Config.default [0x00#8, 0xF7#8, 0x40#8, 0x00#8, 0x00#8, 0x34#8, 0x12#8, 0x01#8, 0x80#8]
      = some (.wFrame ⟨0x40F7#16, 0x0000#16, 0x1234#16, 0x8001#16⟩) ∧
    decodeWire Config.default [0x80#8] = none := by decide
/-- The encoder on the 95 assembler table's packets. -/
theorem test_encode :
    encode (.init 8 1) = some [0x01#8, 0x08#8, 0x00#8, 0x01#8, 0x00#8] ∧
    encode (.wrtext [32, 32, 32, 49] [false, false, false, true])
      = some [0x05#8, 0x04#8, 0x04#8, 0x20#8, 0x00#8, 0x20#8, 0x00#8, 0x20#8, 0x00#8, 0x31#8, 0x00#8, 0x08#8] ∧
    encode (.scroll false [65] [] 250#16)
      = some [0x07#8, 0x00#8, 0xFA#8, 0x00#8, 0x01#8, 0x00#8, 0x00#8, 0x00#8, 0x41#8, 0x00#8] := by decide
/-- A table number's missing operand bytes are zero; the numbers of the two event rows' neighbours and of the wire rows. -/
theorem test_table_words :
    decodeTableWord 8 0x01 = some (.init 0 0) ∧ decodeTableWord 24 0xFFFB03 = some (.setbright (-5)) ∧
    decodeTableWord 8 0x07 = some (.scroll false [] [] 0#16) ∧ decodeTableWord 8 0x09 = some (.reservedOpcode 0x09#8) ∧
    decodeTableWord 0 0 = some .emptyPacket ∧ decodeTableWord 8 0x21 = some .wOsc ∧
    decodeTableWord 8 0x85 = some (.wBlink 2#2) ∧ decodeTableWord 8 0xE7 = some (.wBright 7#4) ∧
    decodeTableWord 8 0x00 = some (.wFrame ⟨0#16, 0#16, 0#16, 0#16⟩) := by decide +kernel
/-- `withFetchWord` makes the very next step run the word, from reset. -/
theorem test_fetch_word :
    added start (step (start.withFetchWord 8 0x06)) = some [.err .noInit 6#16] ∧
    (step (State.reset.withFetchWord 24 0x000202) = exec (.setblink 2) State.reset) := by
  exact ⟨by decide +kernel, rfl⟩

/-! ### One step per instruction -/

/-- V42-1. -/
theorem test_init : added start (present (.cmd [0x01#8, 0x0F#8, 0x00#8, 0x00#8, 0x00#8]) fresh)
    = some [tx [0x21#8], tx [0x81#8], tx [0xEF#8]] := by decide +kernel
/-- V60-8: the second transaction fails, and `INIT` goes on. -/
theorem test_init_bus_failure :
    let r := present (.cmd [0x01#8, 0x0F#8, 0x00#8, 0x00#8, 0x00#8]) { start with answers := [.ok, .fail 0xBEEF#16, .ok] }
    added start r = some [tx [0x21#8], tx [0x81#8], .err .busErr 0xBEEF#16, tx [0xEF#8]] ∧
    see (fun t => (t.inited, t.blink, t.bright, t.status)) r = some (true, some 0#2, some 15#4, 0x04#8) := by decide +kernel
/-- R103's example: `SETBLINK 2`. -/
theorem test_setblink : added ready (present (.cmd [0x02#8, 0x02#8, 0x00#8]) ready) = some [tx [0x85#8]] := by decide +kernel
/-- R103's example: `SETBLINK 7` gives rate 0. -/
theorem test_setblink_out_of_range :
    let r := present (.cmd [0x02#8, 0x07#8, 0x00#8]) ready
    added ready r = some [tx [0x81#8]] ∧ see State.blink r = some (some 0#2) := by decide +kernel
/-- V42-4, V42-5: 20 clamps to the tracked 15 and is skipped, -5 clamps to 0 and is sent. -/
theorem test_setbright :
    added ready (present (.cmd [0x03#8, 0x14#8, 0x00#8]) ready) = some [] ∧
    added ready (present (.cmd [0x03#8, 0xFB#8, 0xFF#8]) ready) = some [tx [0xE0#8]] := by decide +kernel
/-- V42-4 with `BRIGHT_SKIP` false. -/
theorem test_setbright_no_skip :
    added ready (present (.cmd [0x03#8, 0x14#8, 0x00#8]) { ready with cfg := { cfg with brightSkip := false } })
      = some [tx [0xEF#8]] := by decide +kernel
/-- V42-16: bit 15 is kept. -/
theorem test_wrframe :
    let r := present (.cmd [0x04#8, 0xF7#8, 0x00#8, 0x00#8, 0x40#8, 0x00#8, 0x00#8, 0x01#8, 0x80#8]) ready
    added ready r = some [tx [0x00#8, 0xF7#8, 0x00#8, 0x00#8, 0x40#8, 0x00#8, 0x00#8, 0x01#8, 0x80#8]] ∧
    see State.frame r = some (some ⟨0x00F7#16, 0x4000#16, 0x0000#16, 0x8001#16⟩) := by decide +kernel
/-- V43-7: a static request ends the session first. -/
theorem test_wrframe_ends_session :
    let r := exec (.wrframe ⟨0x00F7#16, 0x4000#16, 0x0000#16, 0x8001#16⟩) (running false 1)
    added (running false 1) r
      = some [.timerCancel, tx [0x00#8, 0xF7#8, 0x00#8, 0x00#8, 0x40#8, 0x00#8, 0x00#8, 0x01#8, 0x80#8]] ∧
    see State.active r = some false := by decide +kernel
/-- P1: `WRTEXT "A", [1]`. -/
theorem test_wrtext :
    added ready (present (.cmd [0x05#8, 0x01#8, 0x01#8, 0x41#8, 0x00#8, 0x01#8]) ready)
      = some [tx [0x00#8, 0xF7#8, 0x40#8, 0x00#8, 0x00#8, 0x00#8, 0x00#8, 0x00#8, 0x00#8]] := by decide +kernel
/-- P4's `WRTEXT`: session ended, logs in slot order, then the frame; the fifth character and flags 4, 5 dropped. -/
theorem test_wrtext_logs :
    let r := exec (.wrtext [49, 300, -1, 50, 65] [false, false, false, true, true, true]) (running false 1)
    added (running false 1) r = some [.timerCancel, .log 300, .log (-1),
      tx [0x00#8, 0x06#8, 0x00#8, 0xFF#8, 0x3F#8, 0xFF#8, 0x3F#8, 0xDB#8, 0x40#8]] ∧
    see State.status r = some 0x80#8 := by decide +kernel
/-- V42-17. -/
theorem test_clear :
    let r := present (.cmd [0x06#8]) ready
    added ready r = some [tx blank] ∧ see (fun t => (t.frame, t.blink, t.bright)) r
      = some (some ⟨0#16, 0#16, 0#16, 0#16⟩, some 0#2, some 15#4) := by decide +kernel
/-- V60-1: before `INIT`. -/
theorem test_clear_before_init :
    let r := present (.cmd [0x06#8]) start
    added start r = some [.err .noInit 6#16] ∧ see (fun t => (t.status, t.frame)) r = some (0x08#8, none) := by decide +kernel
/-- V43-1, first row. -/
theorem test_scroll :
    let r := present (.cmd [0x07#8, 0x01#8, 0xF4#8, 0x01#8, 0x02#8, 0x00#8, 0x02#8, 0x00#8, 0x48#8, 0x00#8, 0x49#8, 0x00#8, 0x02#8]) ready
    added ready r = some [.timerArm 500#16] ∧ see State.session r = some (some (hi true 0)) := by decide +kernel
/-- V43-4's operands while a session runs: it is replaced, surplus flags are dropped (R132, R141). -/
theorem test_scroll_supersedes :
    let r := exec (.scroll true [65] (List.replicate 8 true) 100#16) (running false 3)
    added (running false 3) r = some [.timerCancel, .timerArm 100#16] ∧
    see State.session r = some (some ⟨[(65, true)], 100#16, true, 0, 5⟩) := by decide +kernel
/-- V43-7's `SCRSTOP`: the session ends; with none, nothing. -/
theorem test_scrstop :
    added (running false 1) (present (.cmd [0x08#8]) (running false 1)) = some [.timerCancel] ∧
    added ready (present (.cmd [0x08#8]) ready) = some [] := by decide +kernel
/-- V60-9: no bus. -/
theorem test_scrstop_fatal :
    added dead (present (.cmd [0x08#8]) dead) = some [.err .noBus 8#16] := by decide +kernel
/-- V30-5 and V60-2: the decode fault outranks `E_NOINIT`. -/
theorem test_reserved_opcode :
    added ready (present (.cmd [0xFF#8, 0x01#8]) ready) = some [.err .badOp 0xFF#16] ∧
    see State.status (present (.cmd [0x09#8]) start) = some 0x10#8 := by decide +kernel
/-- V30-2. -/
theorem test_empty_packet :
    let r := present (.cmd []) ready
    added ready r = some [.err .malformed 0#16] ∧ see State.status r = some 0x20#8 := by decide +kernel
/-- V43-1, tick 3: "  HI" with the decimal point on 'I'. -/
theorem test_tick_sends :
    let r := present .tick (running true 2)
    added (running true 2) r = some [tx [0x00#8, 0x00#8, 0x00#8, 0x00#8, 0x00#8, 0xF6#8, 0x00#8, 0x09#8, 0x52#8]] ∧
    see State.session r = some (some (hi true 3)) := by decide +kernel
/-- V43-1 tick 8 and V43-2 tick 7: the end of a stopping pass and the wrap of a looping one. -/
theorem test_tick_past_end :
    added (running true 7) (present .tick (running true 7)) = some [.timerCancel] ∧
    see State.session (present .tick (running false 7)) = some (some (hi false 0)) ∧
    added (running false 7) (present .tick (running false 7)) = some [] := by decide +kernel
/-- V70-1: the reset emits `TimerCancel`, its registers are R181's. -/
theorem test_reset :
    see (fun t => (t.trace, t.inited, t.bright, t.active, t.status)) (present .reset (running false 1))
      = some ([.timerCancel], false, none, false, 0x00#8) := by decide +kernel
/-- P6: without a bus. -/
theorem test_reset_no_bus :
    see (fun t => (t.trace, t.fatal, t.status)) (present .reset dead) = some ([.err .noBus 0#16], true, 0x02#8) := by
  decide +kernel
/-- R68. -/
theorem test_w_osc : added ready (exec .wOsc ready) = some [tx [0x21#8]] := by decide +kernel
/-- R69: rates 0 to 3 give 0x81, 0x83, 0x85, 0x87; the bookkeeping stays (R38). -/
theorem test_w_blink : added ready (exec (.wBlink 3#2) ready) = some [tx [0x87#8]] ∧
    see State.blink (exec (.wBlink 3#2) ready) = some (some 0#2) := by decide +kernel
/-- R70. -/
theorem test_w_bright : added ready (exec (.wBright 8#4) ready) = some [tx [0xE8#8]] := by decide +kernel
/-- V41-9 on the bus. -/
theorem test_w_frame : added ready (exec (.wFrame ⟨0x40F7#16, 0x0000#16, 0x1234#16, 0x8001#16⟩) ready)
    = some [tx [0x00#8, 0xF7#8, 0x40#8, 0x00#8, 0x00#8, 0x34#8, 0x12#8, 0x01#8, 0x80#8]] := by decide +kernel
/-- V40-4 to V40-8. -/
theorem test_lookup :
    lookup cfg 65 = (0x00F7#16, false) ∧ lookup cfg 126 = (0x0520#16, false) ∧ lookup cfg 127 = (0x3FFF#16, false) ∧
    lookup cfg 128 = (0x3FFF#16, true) ∧ lookup cfg (-1) = (0x3FFF#16, true) := by decide +kernel
/-- 95 section 2.2: on the port, 0xFFFF gives V40-8, and nothing is logged. -/
theorem test_lookup_port :
    let r := present (.unit (.lookup 0xFFFF#16)) dead
    see State.lk r = some ⟨-1, 0x3FFF#16, true⟩ ∧ added dead r = some [] := by decide +kernel
/-- V41-8. -/
theorem test_encode_logs :
    let r := exec (.encodeText [300, 65, 300, -1] []) ready
    see State.encOut r = some ⟨0x3FFF#16, 0x00F7#16, 0x3FFF#16, 0x3FFF#16⟩ ∧
    added ready r = some [.log 300, .log 300, .log (-1)] := by decide +kernel
/-- V41-5: a decimal point on a padded slot. -/
theorem test_encode_padded :
    see State.encOut (exec (.encodeText [65] [false, true]) ready) = some ⟨0x00F7#16, 0x4000#16, 0#16, 0#16⟩ := by
  decide +kernel
/-- V41-12. -/
theorem test_serialize :
    see State.serOut (exec (.serializeFrame ⟨0x00FF#16, 0xFF00#16, 0x0001#16, 0x8000#16⟩) ready)
      = some [0x00#8, 0xFF#8, 0x00#8, 0x00#8, 0xFF#8, 0x01#8, 0x00#8, 0x00#8, 0x80#8] := by decide +kernel
/-- V30-16 after `INIT`. -/
theorem test_malformed_scroll :
    let r := present (.cmd [0x07#8, 0x02#8, 0xF4#8, 0x01#8, 0x00#8, 0x00#8, 0x00#8, 0x00#8]) ready
    added ready r = some [.err .malformed 7#16] ∧ see State.status r = some 0x20#8 := by decide +kernel
/-- V60-5. -/
theorem test_scroll_too_long :
    added ready (exec (.scroll false (List.replicate 256 65) [] 500#16) ready) = some [.err .tooLong 256#16] := by
  decide +kernel
/-- 95 section 2.4, last paragraph: the bytes and marks of V42-16. -/
theorem test_serializer_marks :
    (serRun 10 (.addr ⟨0x00F7#16, 0x4000#16, 0x0000#16, 0x8001#16⟩)).1 =
      [⟨0x00#8, true, false⟩, ⟨0xF7#8, false, false⟩, ⟨0x00#8, false, false⟩, ⟨0x00#8, false, false⟩,
       ⟨0x40#8, false, false⟩, ⟨0x00#8, false, false⟩, ⟨0x00#8, false, false⟩, ⟨0x01#8, false, false⟩,
       ⟨0x80#8, false, true⟩] := by decide +kernel
/-- R73: the records of an error and of a logged negative code. -/
theorem test_records :
    outputRecord (.err .busErr 0xBEEF#16) = some ⟨2#4, 0xBEEF#16⟩ ∧ outputRecord (.log (-1)) = some ⟨7#4, 0xFFFF#16⟩ := by
  decide
/-- R7: with `TEXT_MAX` = 255, `STEP_W` is 9. -/
theorem test_step_width : cfg.stepW = 9 := by decide +kernel
/-- Log entry 12: the model's reading of a signed hexadecimal `int` and of a hexadecimal `count`. -/
theorem test_assembler_choices :
    readLine "SETBRIGHT -0x5".toList = some (some (.setbright (-5))) ∧
    readLine "TICK 0x10".toList = some (some (.tick (some 16))) := by decide +kernel
/-- R74, R75 and the 95 assembler table: `INIT`, `WRTEXT "A", [1]`, `SCROLL STOP, ""`, `TICK 2`, a comment, no line. -/
theorem test_assembler :
    readLine "INIT ; start".toList = some (some (.init none none)) ∧
    assemble cfg (.init none none) = some [.cmd [0x01#8, 0x0F#8, 0x00#8, 0x00#8, 0x00#8]] ∧
    readLine "WRTEXT \"A\", [1]".toList = some (some (.wrtext [65] (some [true]))) ∧
    assemble cfg (.wrtext [65] (some [true])) = some [.cmd [0x05#8, 0x01#8, 0x01#8, 0x41#8, 0x00#8, 0x01#8]] ∧
    readLine "SCROLL STOP, \"\"".toList = some (some (.scroll true [] none none)) ∧
    assemble cfg (.scroll true [] none none)
      = some [.cmd [0x07#8, 0x01#8, 0xF4#8, 0x01#8, 0x00#8, 0x00#8, 0x00#8, 0x00#8]] ∧
    readLine "TICK 2".toList = some (some (.tick (some 2))) ∧
    assemble cfg (.tick (some 2)) = some [.tick, .tick] ∧
    readLine "; nothing".toList = some none ∧ readLine "JUMP 3".toList = none := by decide +kernel

/-! ### Witnesses: every obligation with hypotheses is met, each clause at values of its boundary -/

/-- A session runs, the last frame sent is step 1's, the device holds it. -/
def shown : State :=
  { running true 2 with
    frame := some ⟨0#16, 0#16, 0#16, 0x00F6#16⟩
    device := { ready.device with ram := memStore [] 0 (frameBytes ⟨0#16, 0#16, 0#16, 0x00F6#16⟩) }
    status := 0x08#8
    input := [.tick]
    trace := [.err .noInit 6#16, tx [0x21#8], tx [0x81#8], tx [0xEF#8], .timerArm 500#16, tx blank,
      tx (serialize ⟨0#16, 0#16, 0#16, 0x00F6#16⟩)] }

theorem shown_register_inv : RegisterInv shown where
  active_inited := by decide
  session_bounds := by
    intro x h
    cases h
    decide +kernel
  inited_config := by decide
  frame_inited := by decide
  fatal_dead := by intro h; cases h

theorem shown_input : SpecInput shown := by
  intro e h
  cases h with
  | head => rfl
  | tail _ h => cases h

theorem shown_bookkeeping : DeviceMirrorsBookkeeping shown where
  input := shown_input
  osc := fun _ => rfl
  blink := by
    intro rate h
    cases h
    rfl
  bright := by
    intro level h
    cases h
    rfl
  ram := by
    intro f h
    cases h
    decide +kernel

/-- A state without a bus and a session, where the other clauses of the tick and of the invariants stand. -/
theorem dead_register_inv : RegisterInv dead where
  active_inited := by decide
  session_bounds := by intro x h; cases h
  inited_config := by decide
  frame_inited := by decide
  fatal_dead := by decide +kernel

theorem witness_DecodeEncodeRoundTrip :
    (Instr.wrtext [-32768, 32767, 65] [true, false, true, true, false, true, false, false, true]).wellFormed = true ∧
    encode (.wrtext [-32768, 32767, 65] [true, false, true, true, false, true, false, false, true])
      = some [0x05#8, 0x03#8, 0x09#8, 0x00#8, 0x80#8, 0xFF#8, 0x7F#8, 0x41#8, 0x00#8, 0x2D#8, 0x01#8] ∧
    (Instr.reservedOpcode 0x09#8).wellFormed = true ∧ encode (.reservedOpcode 0x09#8) = some [0x09#8] := by decide
theorem witness_DecodeIsWellFormed : decode [0x03#8, 0x00#8, 0x80#8] = .instr (.setbright (-32768)) := by decide
theorem witness_WireBytesIdentifyTransaction :
    cfg.wf = true ∧ cfg.kOscOn &&& 0xF9#8 ≠ cfg.kBlinkCmd ||| cfg.kDisplayOn ∧ cfg.kOscOn &&& 0xF0#8 ≠ cfg.kBrightCmd ∧
    (cfg.kBlinkCmd ||| cfg.kDisplayOn) &&& 0xF0#8 ≠ cfg.kBrightCmd ∧
    encodeWire cfg (.wBlink 3#2) = some [0x87#8] ∧ encodeWire cfg (.wBright 15#4) = some [0xEF#8] ∧
    encodeWire cfg .wOsc = some [0x21#8] := by decide +kernel
theorem witness_LengthDecidesPacket :
    (0x01#8 ≤ (0x01#8 : Byte) ∧ (0x01#8 : Byte) ≤ 0x08#8 ∧ [0x01#8, 0x00#8].length ≠ requiredLength [0x01#8, 0x00#8]) ∧
    ((0x07#8 : Byte) ≤ 0x08#8 ∧ (([0x02#8, 0#8, 0#8, 0#8, 0#8, 0#8, 0#8] : List Byte).getD 0 0#8).extractLsb' 1 7 ≠ 0#7) ∧
    ((0x08#8 : Byte) ≤ 0x08#8 ∧ [0x08#8].length = requiredLength [0x08#8] ∧ (0x08#8 : Byte) ≠ 0x07#8) ∧
    ([0x07#8, 0x01#8, 0#8, 0#8, 0#8, 0#8, 0#8, 0#8].length = requiredLength [0x07#8, 0x01#8, 0#8, 0#8, 0#8, 0#8, 0#8, 0#8] ∧
      (([0x01#8, 0#8, 0#8, 0#8, 0#8, 0#8, 0#8] : List Byte).getD 0 0#8).extractLsb' 1 7 = 0#7) := by decide
theorem witness_FlagListsPackLowBitFirst :
    (∀ j < 9, (([0xFF#8, 0x01#8] : List Byte).getD (j / 8) 0#8).getLsbD (j % 8)
      = (([0xFF#8, 0xFF#8] : List Byte).getD (j / 8) 0#8).getLsbD (j % 8)) ∧
    8 < 9 ∧ 8 < (List.replicate 9 true).length := by decide
theorem witness_OperandsAreLowByteFirst : -32768 ≤ (-32768 : Int) ∧ (-32768 : Int) ≤ 32767 ∧ (32767 : Int) ≤ 32767 := by
  decide
theorem witness_LookupIsTableWordOrFallback : ((-1 : Int) < 0 ∨ (127 : Int) < -1) ∧ ((128 : Int) < 0 ∨ (127 : Int) < 128) := by
  decide
theorem witness_LookupResult :
    (127 : Int) = ((127 : Fin 128).val : Int) ∧ (0 : Int) = ((0 : Fin 128).val : Int) ∧ ((-1 : Int) < 0 ∨ (127 : Int) < -1) ∧
    ((128 : Int) < 0 ∨ (127 : Int) < 128) := by decide
theorem witness_EncodeNormalisesOperands : 3 < 4 ∧ 3 < ([1, 2, 3, 4] : List Int).length ∧ ¬ 3 < ([1, 2, 3] : List Int).length := by
  decide
theorem witness_SlotIsGlyphOrDecimalPoint :
    14 < 16 ∧ cfg.wf = true ∧ 3 < 4 ∧ ([65, 66, 67] : List Int).length ≤ 3 ∧ [false, false, false, true].getD 3 false = true ∧
    0 < 4 ∧ ([] : List Int).length ≤ 0 ∧ [true].getD 0 false = true := by decide +kernel
theorem witness_SerializeRoundTrip : 3 < 4 := by decide
theorem witness_InitResult : start.fatal = false ∧ ready.fatal = false := by decide +kernel
theorem witness_SetblinkResult : ready.fatal = false ∧ ready.inited = true := by decide +kernel
theorem witness_SetbrightResult :
    ready.fatal = false ∧ ready.inited = true ∧ ready.cfg.brightSkip = true ∧ ready.bright = some (clampLevel 16) ∧
    ready.bright ≠ some (clampLevel 14) ∧ ({ ready with cfg := { cfg with brightSkip := false } } : State).cfg.brightSkip = false := by
  decide +kernel
theorem witness_WrframeResult : (running false 1).fatal = false ∧ (running false 1).inited = true := by decide +kernel
theorem witness_WrtextResult : ready.fatal = false ∧ ready.inited = true ∧ (running true 7).fatal = false := by decide +kernel
theorem witness_ClearResult : ready.fatal = false ∧ ready.inited = true := by decide +kernel
theorem witness_WireTransactionResult : start.fatal = false ∧ dead.fatal = true := by decide +kernel
theorem witness_BrightSkipLeavesSameDevice :
    DeviceMirrorsBookkeeping shown ∧ shown.bright = some (clampLevel 20) ∧ shown.cfg.brightSkip = true :=
  ⟨shown_bookkeeping, by decide +kernel⟩
theorem witness_ScrollResult :
    ready.fatal = false ∧ ready.inited = true ∧ (List.replicate 255 (65 : Int)).length ≤ ready.cfg.textMax ∧
    ([] : List Int).length ≤ ready.cfg.textMax := by decide +kernel
theorem witness_TextBufferHasOneFlagPerCharacter : 1 < ([65, 66] : List Int).length ∧ ¬ 1 < [true].length := by decide
theorem witness_TooLongScrollIsRefused :
    (Instr.scroll false (List.replicate 256 65) [] 500#16).wellFormed = true ∧ (running false 2).fatal = false ∧
    (running false 2).inited = true ∧ (running false 2).cfg.textMax < (List.replicate 256 (65 : Int)).length := by
  decide +kernel
theorem witness_ScrstopResult : ready.fatal = false ∧ ready.inited = true ∧ (running false 0).inited = true := by
  decide +kernel
theorem witness_TickSendsWindow :
    (running true 6).fatal = false ∧ (running true 6).session = some (hi true 6) ∧ (hi true 6).step ≤ (hi true 6).total ∧
    (hi true 0).step ≤ (hi true 0).total := by decide +kernel
theorem witness_TickPastEndWrapsOrEnds :
    (running true 7).fatal = false ∧ (running true 7).session = some (hi true 7) ∧ (hi true 7).total < (hi true 7).step ∧
    (hi true 7).stop = true ∧ (running false 7).session = some (hi false 7) ∧ (hi false 7).stop = false := by decide +kernel
theorem witness_TickWithoutSessionDoesNothing :
    ready.session = none ∧ dead.fatal = true ∧ RegisterInv dead ∧ dead.inited = false :=
  ⟨rfl, rfl, dead_register_inv, rfl⟩
theorem witness_WindowSlidesOverPaddedText :
    3 < 4 ∧ 4 ≤ 4 ∧ 4 < 4 + (hi true 0).len ∧ 5 < 4 + (hi true 0).len ∧ 4 + (hi true 0).len ≤ 6 ∧
    (hi true 0).len + 4 ≤ (hi true 0).len + 4 := by decide
theorem witness_ScrollPassSendsEveryStep :
    (running true 0).fatal = false ∧ (running true 0).session = some (hi true 0) ∧ (hi true 0).step = 0 ∧
    (hi true 0).total = (hi true 0).len + 4 ∧ (hi true 0).len + 5 ≤ (hi true 0).len + 5 := by decide +kernel
/-- A session of the empty text (V43-3). -/
def hiEmpty : Session := { tb := [], ivl := 500#16, stop := false, step := 0, total := 4 }

theorem witness_ScrollPassSendsEveryStep_empty :
    ({ ready with session := some hiEmpty } : State).fatal = false ∧
    ({ ready with session := some hiEmpty } : State).session = some hiEmpty ∧ hiEmpty.step = 0 ∧
    hiEmpty.total = hiEmpty.len + 4 ∧ 0 ≤ hiEmpty.len + 5 := by decide +kernel
theorem witness_PassBeginsAndEndsBlank : cfg.wf = true := by decide +kernel
theorem witness_ResetRegisters : start.cfg.busPresent = true := by decide +kernel
theorem witness_PacketTestsInOrder :
    ({ dead with input := [.cmd [0x06#8]] } : State).input = [.cmd [0x06#8]] ∧ dead.fatal = true ∧
    start.fatal = false ∧ decode [0x06#8, 0x00#8] = .malformed 0x06#8 ∧
    decode [0x09#8] = .instr (.reservedOpcode 0x09#8) ∧ start.inited = false ∧
    decode [0x08#8] = .instr .scrstop ∧ opcodeByte .scrstop = some 0x08#8 ∧ (0x08#8 : Byte) ≠ 0x01#8 ∧
    decode [0x01#8, 0#8, 0#8, 0#8, 0#8] = .instr (.init 0 0) ∧ opcodeByte (.init 0 0) = some 0x01#8 ∧
    ready.fatal = false ∧ ready.inited = true := by decide +kernel
theorem witness_FatalStateAnswersNoBus :
    (exec .reset dead = .next dead) ∧ dead.cfg.busPresent = false ∧
    ({ dead with input := [.cmd []] } : State).input = [.cmd []] ∧ dead.fatal = true ∧ Instr.wOsc ≠ .reset ∧
    exec .wOsc dead = .next dead := by
  refine ⟨?_, rfl, rfl, rfl, by decide, rfl⟩
  rfl
theorem witness_CommandBeforeInitIsRefused :
    opcodeByte (.setblink 2) = some 0x02#8 ∧ opcodeByte .scrstop = some 0x08#8 ∧ 0x02#8 ≤ (0x02#8 : Byte) ∧
    (0x08#8 : Byte) ≤ 0x08#8 ∧ (∀ b, Instr.setblink 2 ≠ .reservedOpcode b) ∧ start.fatal = false ∧ start.inited = false :=
  ⟨rfl, rfl, by decide, by decide, fun _ => by simp, rfl, rfl⟩
theorem witness_ReservedOpcodeIsBadOp :
    ((0x00#8 : Byte) = 0x00#8 ∨ 0x09#8 ≤ (0x00#8 : Byte)) ∧ ((0x09#8 : Byte) = 0x00#8 ∨ 0x09#8 ≤ (0x09#8 : Byte)) ∧
    ((0xFF#8 : Byte) = 0x00#8 ∨ 0x09#8 ≤ (0xFF#8 : Byte)) ∧ start.fatal = false ∧
    ({ start with input := [.cmd [0x09#8, 0x01#8]] } : State).input = .cmd (0x09#8 :: [0x01#8]) :: [] := by decide +kernel
theorem witness_IllFormedPacketIsMalformed :
    decode [0x02#8, 0x01#8] = .malformed 0x02#8 ∧ ready.fatal = false ∧
    ({ ready with input := [.cmd [0x02#8, 0x01#8]] } : State).input = .cmd [0x02#8, 0x01#8] :: [] := by decide +kernel
theorem witness_StepRunsOldestEvent :
    ({ ready with input := [.cmd [0x06#8], .tick] } : State).input = .cmd [0x06#8] :: [.tick] ∧
    decode [0x06#8] = .instr .clear ∧ ({ ready with input := [.tick] } : State).input = .tick :: [] ∧
    ({ ready with input := [.reset] } : State).input = .reset :: [] ∧
    ({ ready with input := [.unit .wOsc] } : State).input = .unit .wOsc :: [] ∧ ready.input = [] := by decide +kernel
theorem witness_OnlyFramesStoreAndOnlyTheirBytes :
    (∃ t, exec (.setblink 1) ready = .next t) ∧ frameSent (.setblink 1) ready = none ∧
    (∃ t, exec .clear ready = .next t) ∧ frameSent .clear ready = some ⟨0#16, 0#16, 0#16, 0#16⟩ ∧
    startAddr.toNat ≤ 7 ∧ 7 < startAddr.toNat + 8 ∧ startAddr.toNat + 8 ≤ 8 :=
  ⟨⟨_, rfl⟩, by decide +kernel, ⟨_, rfl⟩, by decide +kernel, by decide, by decide, by decide⟩
theorem witness_ConfigurationAndContentAreIndependent :
    (∃ t, exec (.init 3 1) fresh = .next t ∧ t.blink ≠ fresh.blink ∧ t.bright ≠ fresh.bright) ∧ fresh.fatal = false ∧
    (∃ t, exec .clear ready = .next t ∧ t.frame ≠ ready.frame) ∧ Instr.clear ≠ .reset :=
  ⟨⟨_, rfl, by decide +kernel⟩, rfl, ⟨_, rfl, by decide +kernel⟩, by decide⟩
theorem witness_OnlyInitEnables :
    (∃ t, exec (.init 0 0) fresh = .next t ∧ t.inited ≠ fresh.inited) ∧
    (∃ t, exec .reset ready = .next t ∧ t.inited ≠ ready.inited) :=
  ⟨⟨_, rfl, by decide +kernel⟩, ⟨_, rfl, by decide +kernel⟩⟩
theorem witness_OnlyScrollAndContentTouchSession :
    ∃ t, exec (.scroll true [65] [] 500#16) ready = .next t ∧ t.session ≠ ready.session := ⟨_, rfl, by decide +kernel⟩
theorem witness_StatusBitsAreSticky :
    (∃ t, step shown = .next t) ∧ shown.input.head? ≠ some .reset ∧ shown.status = 0x08#8 :=
  ⟨⟨_, rfl⟩, by decide +kernel, rfl⟩
theorem witness_TraceOnlyGrows : (∃ t, step shown = .next t) ∧ shown.input.head? ≠ some .reset :=
  ⟨⟨_, rfl⟩, by decide +kernel⟩
theorem witness_ParametersNeverChange : ∃ t, step shown = .next t := ⟨_, rfl⟩
theorem witness_BusAnswersAreOnlyReported :
    let failed : State := { shown with answers := [.fail 7#16], status := 0x0C#8, trace := shown.trace ++ [.err .busErr 9#16] }
    hideAnswers shown = hideAnswers failed ∧ shown.answers ≠ failed.answers := by decide +kernel
theorem witness_StepKeepsRegisterInvariant : RegisterInv shown ∧ RegisterInv dead ∧ ∃ t, step shown = .next t :=
  ⟨shown_register_inv, dead_register_inv, _, rfl⟩
theorem witness_StepKeepsStatusAndTraceTogether : StatusMirrorsTrace shown ∧ ∃ t, step shown = .next t :=
  ⟨by unfold StatusMirrorsTrace; decide +kernel, _, rfl⟩
theorem witness_StepKeepsOneTimerPerSession : TimerMirrorsSession shown ∧ ∃ t, step shown = .next t :=
  ⟨by unfold TimerMirrorsSession; decide +kernel, _, rfl⟩
theorem witness_StepKeepsBookkeepingTrue : DeviceMirrorsBookkeeping shown ∧ ∃ t, step shown = .next t :=
  ⟨shown_bookkeeping, _, rfl⟩
theorem witness_StepKeepsFrameOnTrace : FrameMirrorsTrace shown ∧ ∃ t, step shown = .next t :=
  ⟨⟨shown_input, by decide +kernel⟩, _, rfl⟩
theorem witness_StepKeepsDeviceMemoryCanonical : DeviceMemoryCanonical shown ∧ ∃ t, step shown = .next t :=
  ⟨by unfold DeviceMemoryCanonical; decide +kernel, _, rfl⟩
theorem witness_StepKeepsWireShape : TraceHasWireShape shown ∧ ∃ t, step shown = .next t :=
  ⟨by unfold TraceHasWireShape; decide +kernel, _, rfl⟩
theorem witness_StepKeepsSerializerIdleAndPortsTrue :
    shown.ser = .idle ∧ LookupPinsHold shown ∧ ∃ t, step shown = .next t :=
  ⟨rfl, by unfold LookupPinsHold; decide +kernel, _, rfl⟩

end Sys2Proof.Tests
end

section
/-! SUPPORT. Who writes the configuration registers and the frame register (10_state.md R15): one lemma per register,
by cases on `Effect`, and O45 from them. -/

namespace Sys2Proof.Machine

/-- Outside the fatal state `INIT` is admitted, `inited` or not (R101, R102). -/
theorem exec_init_of_alive (level rate : Int) {s : State} (hf : s.fatal = false) :
    exec (.init level rate) s = .next (initRule level rate s) := by
  simp [exec, execInit, whenAlive, hf]

/-- R15 for `blink`, reset included (R103, R181): the wire transactions by themselves write no bookkeeping (log entry 11). -/
theorem effect_blink_writers {i : Instr} {s t : State} (h : Effect i s t) (hw : t.blink ≠ s.blink) :
    i = .reset ∨ (∃ level rate, i = .init level rate) ∨ ∃ rate, i = .setblink rate := by
  cases h with
  | reset => exact .inl rfl
  | init level rate => exact .inr (.inl ⟨level, rate, rfl⟩)
  | setblink rate => exact .inr (.inr ⟨rate, rfl⟩)
  | _ => exact absurd rfl hw

/-- R15 for `bright`, reset included (R105, R181); a skipped `SETBRIGHT` is among the effects that keep it. -/
theorem effect_bright_writers {i : Instr} {s t : State} (h : Effect i s t) (hw : t.bright ≠ s.bright) :
    i = .reset ∨ (∃ level rate, i = .init level rate) ∨ ∃ level, i = .setbright level := by
  cases h with
  | reset => exact .inl rfl
  | init level rate => exact .inr (.inl ⟨level, rate, rfl⟩)
  | setbright level => exact .inr (.inr ⟨level, rfl⟩)
  | _ => exact absurd rfl hw

/-- R15 for `F`, reset included (R107, R181); of the ticks, only one that sends writes it (R134). -/
theorem effect_frame_writers {i : Instr} {s t : State} (h : Effect i s t) (hw : t.frame ≠ s.frame) :
    i = .reset ∨ (∃ f, i = .wrframe f) ∨ (∃ text dots, i = .wrtext text dots) ∨ i = .clear ∨ i = .tick := by
  cases h with
  | reset => exact .inl rfl
  | wrframe f => exact .inr (.inl ⟨f, rfl⟩)
  | wrtext text dots => exact .inr (.inr (.inl ⟨text, dots, rfl⟩))
  | clear => exact .inr (.inr (.inr (.inl rfl)))
  | tickSend => exact .inr (.inr (.inr (.inr rfl)))
  | _ => exact absurd rfl hw

/-- Settles O45: each register's writers are read off the effects; `INIT` outside the fatal state runs `initRule`,
whose update names `blink` and `bright` and not `F`. -/
theorem configurationAndContentAreIndependent : Obligations.ConfigurationAndContentAreIndependent := by
  intro i s t hr h
  have he : Effect i s t := exec_effect h
  refine ⟨fun hw => (effect_blink_writers he hw).resolve_left hr,
    fun hw => (effect_bright_writers he hw).resolve_left hr,
    fun hw => (effect_frame_writers he hw).resolve_left hr, ?_⟩
  rintro level rate rfl hf
  rw [exec_init_of_alive level rate hf, initRule_eq] at h
  cases h
  exact ⟨rfl, rfl, rfl⟩

end Sys2Proof.Machine
end

section
/-! SUPPORT. Flag lists (30_encoding.md R54): one flag read, the length of a packed list and one of its bytes, and O6
from them. -/

namespace Sys2Proof

@[simp] theorem flags_length (m : Nat) (p : List Byte) : (flags m p).length = m := by
  simp [flags]

/-- Flag `j` is read from bit `j mod 8` of byte `j / 8`. -/
theorem flags_getElem? {m j : Nat} (p : List Byte) (hj : j < m) :
    (flags m p)[j]? = some ((p.getD (j / 8) 0#8).getLsbD (j % 8)) := by
  simp [flags, hj]

/-- Only the bits of the `m` flags are read: the bits above them have no effect. -/
theorem flags_congr {m : Nat} {p q : List Byte}
    (h : ∀ j < m, (p.getD (j / 8) 0#8).getLsbD (j % 8) = (q.getD (j / 8) 0#8).getLsbD (j % 8)) :
    flags m p = flags m q :=
  List.map_congr_left fun j hj => h j (List.mem_range.mp hj)

@[simp] theorem packFlags_length (dots : List Bool) : (packFlags dots).length = flagBytes dots.length := by
  simp [packFlags]

/-- Within the packed bytes, byte `k` is made of the eight flags from `8k` on. -/
theorem packFlags_getD {dots : List Bool} {k : Nat} (hk : k < flagBytes dots.length) :
    (packFlags dots).getD k 0#8 = flagByte dots k := by
  simp [packFlags, hk]

/-- The byte of a flag is one of the packed bytes. -/
theorem div_lt_flagBytes {j m : Nat} (hj : j < m) : j / 8 < flagBytes m := by
  unfold flagBytes
  omega

/-- Flag `j` is packed into bit `j mod 8` of byte `j / 8`. -/
theorem packFlags_bit {dots : List Bool} {j : Nat} (hj : j < dots.length) :
    ((packFlags dots).getD (j / 8) 0#8).getLsbD (j % 8) = dots.getD j false := by
  rw [packFlags_getD (div_lt_flagBytes hj), flagByte_bit dots _ _ (Nat.mod_lt j (by decide)), Nat.div_add_mod]

/-- Settles O6: reading, packing and the spare bits, each by its lemma. -/
theorem flagListsPackLowBitFirst : Obligations.FlagListsPackLowBitFirst :=
  ⟨fun m p => ⟨flags_length m p, fun _ => flags_getElem? p⟩,
    fun dots => ⟨packFlags_length dots, fun _ => packFlags_bit⟩,
    fun _ _ _ => flags_congr,
    rfl⟩

end Sys2Proof
end

section
/-! SUPPORT. The shape of the trace's transactions (30_encoding.md R67): what each shared operation adds to the trace
keeps it, so every effect and every step does, and O59 from that. -/

namespace Sys2Proof.Machine

/-- R67 speaks of transactions only. -/
theorem wireShape_of_not_busWrite (c : Config) {e : Output} (h : isBusWrite e = false) : wireShape c e = true := by
  cases e with
  | busWrite => cases h
  | _ => rfl

/-- A configuration transaction has R67's first shape. -/
theorem wireShape_config (c : Config) (b : Byte) : wireShape c (.busWrite c.devAddr [b]) = true := by
  simp [wireShape]

/-- A frame's register buffer has R67's second shape, with R71's start address in front. -/
theorem wireShape_frame (c : Config) (f : Frame) :
    wireShape c (.busWrite c.devAddr (startAddr :: frameBytes f)) = true := by
  simp [wireShape, frameBytes, wordBytes]

theorem isBusWrite_answerRecords (a : BusAnswer) : ∀ e ∈ answerRecords a, isBusWrite e = false := by
  cases a <;> simp [answerRecords, isBusWrite]

/-- The trace may grow by events that are no transaction. -/
theorem TraceHasWireShape.append {s t : State} {new : List Output} (h : TraceHasWireShape s) (hc : t.cfg = s.cfg)
    (ht : t.trace = s.trace ++ new) (hn : ∀ e ∈ new, isBusWrite e = false) : TraceHasWireShape t := by
  intro e he
  rw [ht, List.mem_append] at he
  rw [hc]
  rcases he with he | he
  · exact h e he
  · exact wireShape_of_not_busWrite s.cfg (hn e he)

/-- The trace may grow by a transaction of R67's shape and the bus's answer to it. -/
theorem TraceHasWireShape.sent {s : State} {bytes : List Byte} (dev : Device → Device) (h : TraceHasWireShape s)
    (hb : wireShape s.cfg (.busWrite s.cfg.devAddr bytes) = true) : TraceHasWireShape (sent bytes dev s) := by
  intro e he
  rw [sent_trace, List.mem_append, List.mem_cons] at he
  rcases he with he | rfl | he
  · exact h e he
  · exact hb
  · exact wireShape_of_not_busWrite s.cfg (isBusWrite_answerRecords _ e he)

theorem TraceHasWireShape.sentByte {s : State} (b : Byte) (dev : Device → Device) (h : TraceHasWireShape s) :
    TraceHasWireShape (Machine.sent [b] dev s) :=
  h.sent dev (wireShape_config s.cfg b)

theorem TraceHasWireShape.sentFrame {s : State} (f : Frame) (h : TraceHasWireShape s) :
    TraceHasWireShape (sentFrame f s) :=
  h.sent _ (wireShape_frame s.cfg f)

theorem TraceHasWireShape.refused {s : State} (cause : Cause) (info : Word) (h : TraceHasWireShape s) :
    TraceHasWireShape (refused cause info s) :=
  h.append rfl rfl (by simp [isBusWrite])

theorem TraceHasWireShape.sessionEnded {s : State} (h : TraceHasWireShape s) : TraceHasWireShape (sessionEnded s) :=
  h.append rfl rfl (by cases s.active <;> simp [isBusWrite])

theorem TraceHasWireShape.logged {s : State} (text : List Int) (h : TraceHasWireShape s) :
    TraceHasWireShape (logged text s) :=
  h.append rfl rfl (by simp [isBusWrite])

/-- The trace a reset starts holds no transaction (R182). -/
theorem traceHasWireShape_resetRule (s : State) : TraceHasWireShape (resetRule s) := by
  intro e he
  apply wireShape_of_not_busWrite
  rw [resetRule_trace, List.mem_append] at he
  rcases he with he | he <;> split at he <;> simp_all [isBusWrite]

/-- Every operation keeps R67's shape; `TraceHasWireShape` reads `cfg` and `trace` alone, so the
registers an effect writes have no part in it, and `id` may stand for what a transaction writes in the device. -/
theorem effect_traceHasWireShape {i : Instr} {s t : State} (he : Effect i s t) (h : TraceHasWireShape s) :
    TraceHasWireShape t := by
  cases he with
  | refused => exact h.refused _ _
  | init => exact ((h.sentByte _ id).sentByte _ id).sentByte _ id
  | setblink | setbright | wOsc | wBlink | wBright => exact h.sentByte _ id
  | wrframe | clear => exact h.sessionEnded.sentFrame _
  | wrtext text => exact (h.sessionEnded.logged text).sentFrame _
  | scroll _ _ _ ivl => exact h.sessionEnded.append (new := [.timerArm ivl]) rfl rfl (by simp [isBusWrite])
  | scrstop | tickEnd => exact h.sessionEnded
  | tickSend => exact (h.logged _).sentFrame _
  | reset => exact traceHasWireShape_resetRule s
  | wFrame f => exact h.sentFrame f
  | encodeText text => exact h.logged text
  | same | tickWrap | lookupGlyph | serializeFrame => exact h

/-- Settles O59: a step waits, runs an operation, or refuses a packet, and each keeps the shape. -/
theorem stepKeepsWireShape : Obligations.StepKeepsWireShape := by
  intro s t h hstep
  rcases step_cases hstep with ⟨_, rfl⟩ | ⟨_, rest, i, _, _, he⟩ | ⟨_, rest, cause, info, _, _, _, rfl⟩
  · exact h
  · exact effect_traceHasWireShape he h
  · exact TraceHasWireShape.refused (s := { s with input := rest }) cause info h

end Sys2Proof.Machine
end

section
/-! SUPPORT. The glyph table's `lookup` (40_glyph_lookup.md R80 to R85): the index and the `unmapped` bit of a code in
range and of one out of range, the range test on a 16-bit field, and O8 from them. -/

namespace Sys2Proof.Machine

theorem isUnmapped_iff (c : Int) : isUnmapped c = true ↔ c < 0 ∨ 127 < c := by
  simp [isUnmapped]

@[simp] theorem glyphIndex_fin (k : Fin 128) : glyphIndex (k.val : Int) = k := by
  have hk : 0 ≤ (k.val : Int) ∧ (k.val : Int) ≤ 127 := by omega
  simp [glyphIndex, hk]

theorem glyphIndex_unmapped {c : Int} (h : c < 0 ∨ 127 < c) : glyphIndex c = fallbackIndex :=
  dif_neg (by omega)

/-- R81: in range the whole table word answers, and the code is mapped. -/
theorem lookup_fin (cfg : Config) (k : Fin 128) : lookup cfg (k.val : Int) = (cfg.rom[k], false) := by
  have hk : isUnmapped (k.val : Int) = false := by
    rw [Bool.eq_false_iff, Ne, isUnmapped_iff]
    omega
  rw [lookup, glyphIndex_fin, hk, romRead]

/-- R82: out of range the word stored at index 127 answers, and the code is unmapped. -/
theorem lookup_unmapped (cfg : Config) {c : Int} (h : c < 0 ∨ 127 < c) : lookup cfg c = (cfg.rom[127], true) := by
  rw [lookup, glyphIndex_unmapped h, (isUnmapped_iff c).mpr h]
  rfl

/-- R82's test on a 16-bit field: both sides say that the unsigned value is below 128, so a set sign bit, `w[15]`,
is among the bits that must be clear. -/
theorem toInt_mapped_iff (w : Word) : (0 ≤ w.toInt ∧ w.toInt ≤ 127) ↔ w.extractLsb' 7 9 = 0#9 := by
  have hw : w.toNat < 65536 := w.isLt
  have hint : (0 ≤ w.toInt ∧ w.toInt ≤ 127) ↔ w.toNat < 128 := by
    rw [BitVec.toInt_eq_toNat_cond]
    split <;> omega
  have hbits : w.extractLsb' 7 9 = 0#9 ↔ w.toNat < 128 := by
    rw [BitVec.toNat_eq, BitVec.extractLsb'_toNat, Nat.shiftRight_eq_div_pow, BitVec.toNat_ofNat]
    omega
  exact hint.trans hbits.symm

/-- Settles O8: R81 and R82 by their lemmas; the code 127 is itself in range, so its mask is the word at 127. -/
theorem lookupIsTableWordOrFallback : Obligations.LookupIsTableWordOrFallback := by
  refine ⟨lookup_fin, fun cfg c hc => ?_, toInt_mapped_iff⟩
  have h127 : lookup cfg 127 = (cfg.rom[127], false) := lookup_fin cfg 127
  rw [lookup_unmapped cfg hc, h127]
  exact ⟨rfl, rfl, rfl⟩

end Sys2Proof.Machine
end

section
/-! SUPPORT. The parameters (10_state.md R25, 40_glyph_lookup.md R84): no effect names `cfg` among what it writes, and
O50 from that. -/

namespace Sys2Proof.Machine

/-- No operation writes a parameter, the reset event included (R84): each effect leaves the field `cfg` as it was. -/
theorem effect_cfg {i : Instr} {s t : State} (h : Effect i s t) : t.cfg = s.cfg := by
  cases h <;> rfl

/-- Settles O50: a step waits, runs an operation, or refuses a packet, and taking the event off the input leaves the
parameters alone. -/
theorem parametersNeverChange : Obligations.ParametersNeverChange := by
  intro s t hstep
  rcases step_cases hstep with ⟨_, rfl⟩ | ⟨_, rest, _, _, _, he⟩ | ⟨_, _, _, _, _, _, _, rfl⟩
  · rfl
  · exact effect_cfg (s := { s with input := rest }) he
  · rfl

end Sys2Proof.Machine
end

section
/-! SUPPORT. The frame's register buffer (41_frame_encoder.md R95, R96): a slot is read back from its two bytes, and O14
from that. -/

namespace Sys2Proof.Machine

/-- R96's `hi << 8 | lo` is the 16-bit operand of R52. -/
theorem shiftLeft_or_eq_word16 (lo hi : Byte) : hi.setWidth 16 <<< 8 ||| lo.setWidth 16 = word16 lo hi := by
  refine BitVec.eq_of_getLsbD_eq fun b hb => ?_
  rw [word16, BitVec.getLsbD_append, BitVec.getLsbD_or, BitVec.getLsbD_shiftLeft, BitVec.getLsbD_setWidth,
    BitVec.getLsbD_setWidth]
  by_cases h : b < 8
  · simp [h, hb]
  · simp [h, hb, show b - 8 < 16 by omega, BitVec.getLsbD_of_ge lo b (by omega)]

/-- R95: slot `i` lies low byte first at `2i + 1` of the register buffer, behind the start address. -/
theorem serialize_slot (f : Frame) {i : Nat} (hi : i < 4) :
    (serialize f).getD (2 * i + 1) 0#8 = loByte (slotOf f i) ∧ (serialize f).getD (2 * i + 2) 0#8 = hiByte (slotOf f i) := by
  match i, hi with
  | 0, _ | 1, _ | 2, _ | 3, _ => exact ⟨rfl, rfl⟩

/-- Settles O14: the two bytes of a slot make the word that was split into them. -/
theorem serializeRoundTrip : Obligations.SerializeRoundTrip := by
  refine fun f => ⟨rfl, rfl, fun i hi => ?_⟩
  obtain ⟨hlo, hhi⟩ := serialize_slot f hi
  rw [hlo, hhi, shiftLeft_or_eq_word16, word16_bytes]

end Sys2Proof.Machine
end

section
/-! SUPPORT. The slots of an encoded frame (41_frame_encoder.md R91 to R93): a slot by its index, the operands cut or
filled to `WIDTH`, the decimal point's bit, and O10 and O11 from them. -/

namespace Sys2Proof.Machine

/-! ### A slot by its index -/

theorem slotOf_encodeFrame (cfg : Config) (text : List Int) (dots : List Bool) {k : Nat} (hk : k < 4) :
    slotOf (encodeFrame cfg text dots) k = slotValue cfg (slotChar text k) (slotDot dots k) := by
  match k, hk with
  | 0, _ | 1, _ | 2, _ | 3, _ => rfl

/-- R92 as one OR: with `K_DP` where the flag is set, with nothing else. -/
theorem slotValue_eq_or (cfg : Config) (ch : Int) (dot : Bool) :
    slotValue cfg ch dot = (lookup cfg ch).1 ||| if dot = true then kDp else 0x0000#16 := by
  cases dot
  · exact BitVec.or_zero.symm
  · rfl

/-! ### Operands cut or filled to `WIDTH` -/

/-- A list cut to `WIDTH` = 4 entries or filled with `d` on the right (R91, R93). -/
def cutOrFill {α : Type} (d : α) (xs : List α) : List α := xs.take 4 ++ List.replicate (4 - xs.length) d

theorem cutOrFill_length {α : Type} (d : α) (xs : List α) : (cutOrFill d xs).length = 4 := by
  simp only [cutOrFill, List.length_append, List.length_take, List.length_replicate]
  omega

/-- Within `WIDTH` the filled list holds what the given one holds, or `d` beyond it. -/
theorem cutOrFill_getElem? {α : Type} (d : α) (xs : List α) {k : Nat} (hk : k < 4) :
    (cutOrFill d xs)[k]? = some (xs.getD k d) := by
  by_cases h : k < xs.length
  · have hcut : k < (xs.take 4).length := by
      rw [List.length_take]
      omega
    rw [cutOrFill, List.getElem?_append_left hcut, List.getElem?_take_of_lt hk, List.getElem?_eq_getElem h,
      List.getD_eq_getElem _ _ h]
  · have hall : xs.take 4 = xs := List.take_of_length_le (by omega)
    rw [cutOrFill, hall, List.getElem?_append_right (by omega), List.getElem?_replicate, if_pos (by omega),
      List.getD_eq_default _ _ (by omega)]

/-- An entry or the default, written by a test of the index. -/
theorem getD_eq_dite {α : Type} (d : α) (xs : List α) (k : Nat) :
    xs.getD k d = if h : k < xs.length then xs[k] else d := by
  split
  · exact List.getD_eq_getElem _ _ _
  · exact List.getD_eq_default _ _ (by omega)

theorem slotChar_cutOrFill (text : List Int) {k : Nat} (hk : k < 4) :
    slotChar (cutOrFill spaceCode text) k = slotChar text k := by
  rw [slotChar, List.getD_eq_getElem?_getD, cutOrFill_getElem? _ _ hk, Option.getD_some, slotChar]

theorem slotDot_cutOrFill (dots : List Bool) {k : Nat} (hk : k < 4) :
    slotDot (cutOrFill false dots) k = slotDot dots k := by
  rw [slotDot, List.getD_eq_getElem?_getD, cutOrFill_getElem? _ _ hk, Option.getD_some, slotDot]

/-- What is beyond position 3 lights no segment (R91, R93). -/
theorem encodeFrame_cutOrFill (cfg : Config) (text : List Int) (dots : List Bool) :
    encodeFrame cfg (cutOrFill spaceCode text) (cutOrFill false dots) = encodeFrame cfg text dots := by
  simp [encodeFrame, slotChar_cutOrFill, slotDot_cutOrFill]

/-- What is beyond position 3 logs nothing (R91). -/
theorem encodeLogs_cutOrFill (text : List Int) (s : State) :
    encodeLogs (cutOrFill spaceCode text) s = encodeLogs text s := by
  simp [encodeLogs, slotChar_cutOrFill]

theorem exec_wrtext_cutOrFill (text : List Int) (dots : List Bool) (s : State) :
    exec (.wrtext (cutOrFill spaceCode text) (cutOrFill false dots)) s = exec (.wrtext text dots) s := by
  simp only [exec, execWrtext, sendText, encodeFrame_cutOrFill, encodeLogs_cutOrFill]

/-- Settles O10: the slots by their index, the filled lists by theirs; `WRTEXT` reads its operands through the four
slots only. -/
theorem encodeNormalisesOperands : Obligations.EncodeNormalisesOperands := by
  intro text dots s
  simp only [← getD_eq_dite]
  exact ⟨fun k hk => (slotOf_encodeFrame s.cfg text dots hk).trans (slotValue_eq_or ..),
    fun k hk => ⟨cutOrFill_getElem? 32 text hk, cutOrFill_getElem? false dots hk⟩,
    cutOrFill_length 32 text, cutOrFill_length false dots,
    (exec_wrtext_cutOrFill text dots s).symm⟩

/-! ### The decimal point's bit -/

/-- R92 bit by bit: the flag reaches bit 14, `K_DP`'s only one. -/
theorem slotValue_bit (cfg : Config) (ch : Int) (dot : Bool) {b : Nat} (hb : b < 16) :
    (slotValue cfg ch dot).getLsbD b = ((lookup cfg ch).1.getLsbD b || (decide (b = 14) && dot)) := by
  have kDp_bit : ∀ b < 16, kDp.getLsbD b = decide (b = 14) := by decide
  rw [slotValue_eq_or, BitVec.getLsbD_or]
  cases dot <;> simp [kDp_bit b hb]

/-- R83: the space's table word is blank, and its code is in range. -/
theorem lookup_space {cfg : Config} (hwf : cfg.wf = true) : lookup cfg spaceCode = (0x0000#16, false) := by
  have hrom : cfg.rom[32] = 0x0000#16 := by
    simp only [Config.wf, Bool.and_eq_true, decide_eq_true_eq] at hwf
    obtain ⟨⟨⟨⟨⟨hspace, _⟩, _⟩, _⟩, _⟩, _⟩ := hwf
    exact hspace
  rw [← hrom]
  exact lookup_fin cfg 32

/-- A space shows its flag's decimal point and nothing else. -/
theorem slotValue_space {cfg : Config} (hwf : cfg.wf = true) (dot : Bool) :
    slotValue cfg spaceCode dot = if dot = true then kDp else 0x0000#16 := by
  rw [slotValue_eq_or, lookup_space hwf, BitVec.zero_or]

/-- Settles O11: the slot's bits, and the slot of a padded position, which is a space's. -/
theorem slotIsGlyphOrDecimalPoint : Obligations.SlotIsGlyphOrDecimalPoint := by
  constructor
  · intro cfg text dots k hk b hb
    rw [slotOf_encodeFrame cfg text dots hk]
    exact slotValue_bit cfg _ _ hb
  · intro cfg text dots hwf k hk hpad hdot
    have hspace : slotChar text k = spaceCode := List.getD_eq_default _ _ hpad
    have hflag : slotDot dots k = true := hdot
    rw [slotOf_encodeFrame cfg text dots hk, hspace, hflag, slotValue_space hwf, if_pos rfl]

end Sys2Proof.Machine
end

section
/-! SUPPORT. The operands of the configuration commands (42_display_driver.md R104, R106): the value each clamp and
each default has as an integer, the bits of the rate field, and O15 from them. -/

namespace Sys2Proof.Machine

/-- R106: the clamped level as an integer; only a level in 0..15 goes through its four bits, which hold it whole. -/
theorem clampLevel_toNat (level : Int) :
    ((clampLevel level).toNat : Int) = if level < 0 then 0 else if 15 < level then 15 else level := by
  unfold clampLevel
  split_ifs
  · rfl
  · rfl
  · rw [BitVec.toNat_ofInt]
    omega

/-- R104: the normalised rate as an integer; only a rate in 0..3 goes through its two bits, which hold it whole. -/
theorem normRate_toNat (rate : Int) :
    ((normRate rate).toNat : Int) = if 0 ≤ rate ∧ rate ≤ 3 then rate else 0 := by
  unfold normRate
  split_ifs
  · rw [BitVec.toNat_ofInt]
    omega
  · rfl

/-- R104's remark on R69: 0xF9 masks out bits 2..1, the rate field of the blink byte. -/
theorem rateField_mask : ∀ rt : BitVec 2, (rt.setWidth 8 <<< 1 : Byte) &&& 0xF9#8 = 0#8 := by
  decide

/-- Settles O15: the clamp, the default and the rate field, each by its lemma. -/
theorem levelClampsAndRateDefaults : Obligations.LevelClampsAndRateDefaults :=
  ⟨clampLevel_toNat, normRate_toNat, rateField_mask⟩

end Sys2Proof.Machine
end

section
/-! SUPPORT. The admission of a packet (42_display_driver.md R101, 60_exceptions.md R161): what each test answers when
it fails, for the shared admissions, then for `exec` of a command, then for a step; and O37 from them. -/

namespace Sys2Proof

/-- R64, R65: a first byte 0x01 to 0x08 selects a command's own line, so what decodes as reserved is outside them. -/
theorem decode_reservedOpcode {p : List Byte} {op : Byte} (h : decode p = .instr (.reservedOpcode op)) :
    ¬ (0x01#8 ≤ op ∧ op ≤ 0x08#8) := by
  cases p with
  | nil => cases h
  | cons a q =>
    simp only [decode, decodeInit, decodeSetblink, decodeSetbright, decodeWrframe, decodeWrtext, decodeClear,
      decodeScroll, decodeScrstop] at h
    repeat' split at h
    all_goals cases h
    bv_omega

end Sys2Proof

namespace Sys2Proof.Machine

/-! ### The shared admissions -/

theorem whenAlive_of_fatal (op : Byte) {s : State} (rule : State → State) (hf : s.fatal = true) :
    whenAlive op s rule = refused .noBus (op.setWidth 16) s :=
  if_pos hf

theorem whenAlive_of_alive (op : Byte) {s : State} (rule : State → State) (hf : s.fatal = false) :
    whenAlive op s rule = rule s :=
  if_neg (by simp [hf])

theorem whenAdmitted_of_fatal (op : Byte) {s : State} (rule : State → State) (hf : s.fatal = true) :
    whenAdmitted op s rule = refused .noBus (op.setWidth 16) s :=
  if_pos hf

theorem whenAdmitted_of_not_inited (op : Byte) {s : State} (rule : State → State) (hf : s.fatal = false)
    (hi : s.inited = false) : whenAdmitted op s rule = refused .noInit (op.setWidth 16) s := by
  simp [whenAdmitted, hf, hi, raise_eq, opcodeInfo]

/-! ### The admission of a command's operation -/

/-- R101, first test: in the fatal state every command with an opcode is answered with `E_NOBUS` and that opcode. -/
theorem exec_command_of_fatal {i : Instr} {op : Byte} {s : State} (hop : opcodeByte i = some op)
    (hf : s.fatal = true) : exec i s = .next (refused .noBus (op.setWidth 16) s) := by
  cases i with
  | init | reservedOpcode =>
    cases hop
    exact congrArg _ (whenAlive_of_fatal _ _ hf)
  | setblink | setbright | wrframe | wrtext | clear | scroll | scrstop =>
    cases hop
    exact congrArg _ (whenAdmitted_of_fatal _ _ hf)
  | _ => cases hop

theorem exec_emptyPacket_of_fatal {s : State} (hf : s.fatal = true) :
    exec .emptyPacket s = .next (refused .noBus 0x0000#16 s) :=
  congrArg _ (whenAlive_of_fatal 0x00#8 _ hf)

/-- R101's second test and R156 for the empty packet. -/
theorem exec_emptyPacket_of_alive {s : State} (hf : s.fatal = false) :
    exec .emptyPacket s = .next (refused .malformed 0x0000#16 s) :=
  congrArg _ (whenAlive_of_alive 0x00#8 _ hf)

/-- R101's second test and R155 for a reserved opcode, `inited` or not. -/
theorem exec_reservedOpcode_of_alive (op : Byte) {s : State} (hf : s.fatal = false) :
    exec (.reservedOpcode op) s = .next (refused .badOp (op.setWidth 16) s) :=
  congrArg _ (whenAlive_of_alive op _ hf)

/-- R101, third test: before `INIT` every other known command is answered with `E_NOINIT` and its opcode. -/
theorem exec_command_of_not_inited {i : Instr} {op : Byte} {s : State} (hop : opcodeByte i = some op)
    (hinit : op ≠ 0x01#8) (hknown : ∀ b, i ≠ .reservedOpcode b) (hf : s.fatal = false) (hi : s.inited = false) :
    exec i s = .next (refused .noInit (op.setWidth 16) s) := by
  cases i with
  | init =>
    cases hop
    exact absurd rfl hinit
  | reservedOpcode b => exact absurd rfl (hknown b)
  | setblink | setbright | wrframe | wrtext | clear | scroll | scrstop =>
    cases hop
    exact congrArg _ (whenAdmitted_of_not_inited _ _ hf hi)
  | _ => cases hop

/-! ### The admission of a packet by a step -/

section
variable {s : State} {p : List Byte} {rest : List Event} (hin : s.input = .cmd p :: rest)
include hin

theorem step_packet_instr {i : Instr} (hd : decode p = .instr i) : step s = exec i { s with input := rest } := by
  simp only [step, hin, fetch, hd]

theorem step_packet_malformed {op : Byte} (hd : decode p = .malformed op) :
    step s = .next (rejectPacket op { s with input := rest }) := by
  simp only [step, hin, fetch, hd]

/-- R101, first test: in the fatal state every packet, also one that decodes to nothing, is answered with `E_NOBUS`
and its first byte, or 0 where it has none. -/
theorem step_packet_of_fatal (hf : s.fatal = true) :
    step s = .next (refused .noBus ((p.headD 0x00#8).setWidth 16) { s with input := rest }) := by
  cases hd : decode p with
  | malformed op =>
    obtain ⟨q, rfl⟩ := decode_malformed hd
    rw [step_packet_malformed hin hd]
    exact congrArg _ (whenAlive_of_fatal op _ hf)
  | instr i =>
    rw [step_packet_instr hin hd]
    rcases decode_opcode hd with ⟨rfl, rfl⟩ | ⟨op, q, rfl, hop, _⟩
    · exact exec_emptyPacket_of_fatal hf
    · exact exec_command_of_fatal hop hf

/-- R101's second test and R156: outside the fatal state an ill-formed packet is answered with `E_MALFORMED`. -/
theorem step_malformed_of_alive (hf : s.fatal = false) {op : Byte} (hd : decode p = .malformed op) :
    step s = .next (refused .malformed (op.setWidth 16) { s with input := rest }) := by
  rw [step_packet_malformed hin hd]
  exact congrArg _ (whenAlive_of_alive op _ hf)

end

/-- Settles O37: each test by the lemma of its failure; in the third, an opcode 0x01 to 0x08 keeps the reserved
opcodes, which need no `INIT`, out. The last clause is a step's own rule. -/
theorem packetTestsInOrder : Obligations.PacketTestsInOrder := by
  intro s p rest hin
  refine ⟨step_packet_of_fatal hin, fun hf op => step_malformed_of_alive hin hf, ?_, ?_, ?_, ?_⟩
  · rintro hf rfl
    rw [step_packet_instr hin rfl]
    exact exec_emptyPacket_of_alive hf
  · intro hf op hd
    rw [step_packet_instr hin hd]
    exact exec_reservedOpcode_of_alive op hf
  · intro hf hi i op hd hop hinit hlo hhi
    have hknown : ∀ b, i ≠ .reservedOpcode b := by
      rintro b rfl
      cases hop
      exact decode_reservedOpcode hd ⟨hlo, hhi⟩
    rw [step_packet_instr hin hd]
    exact exec_command_of_not_inited hop hinit hknown hf hi
  · intro _ i op hd _ _
    exact step_packet_instr hin hd

end Sys2Proof.Machine
end

section
/-! SUPPORT. The scroll engine's session (43_scroll_engine.md R132, R135, R140): the entry of the text buffer at an
index, the window over the padded text by the range of its position, a tick that has no session to advance; and O26,
O31 and O32 from them. -/

namespace Sys2Proof.Machine

/-! ### The text buffer -/

/-- R132: a character stands with its own flag, or with false where the list of flags has ended. -/
theorem textBuffer_getElem? (text : List Int) (dots : List Bool) (j : Nat) :
    (textBuffer text dots)[j]? = text[j]?.map fun c => (c, dots.getD j false) := by
  simp [textBuffer, Function.comp_def]

/-- Settles O26: at an index of the text the defaults of the statement are read only where the flags have ended. -/
theorem textBufferHasOneFlagPerCharacter : Obligations.TextBufferHasOneFlagPerCharacter := by
  refine fun text dots => ⟨textBuffer_length text dots, fun j hj => ?_⟩
  have hchar : text.getD j 0 = text[j] := List.getD_eq_getElem _ _ hj
  have hflag : (if j < dots.length then dots.getD j true else false) = dots.getD j false := by
    split
    · next h => rw [List.getD_eq_getElem _ _ h, List.getD_eq_getElem _ _ h]
    · next h => rw [List.getD_eq_default _ _ (by omega)]
  rw [textBuffer_getElem?, List.getElem?_eq_getElem hj, hchar, hflag, Option.map_some]

/-! ### A tick without a session -/

theorem exec_tick_of_fatal {s : State} (hf : s.fatal = true) : exec .tick s = .next s :=
  congrArg _ (if_pos hf)

theorem exec_tick_of_no_session {s : State} (hs : s.session = none) : exec .tick s = .next s := by
  simp [exec, execTick, tickRule, hs]

/-- R29: before `INIT` there is no session. -/
theorem RegisterInv.no_session {s : State} (hinv : RegisterInv s) (hi : s.inited = false) : s.session = none := by
  cases hs : s.session with
  | none => rfl
  | some x =>
    obtain ⟨hinited, _⟩ := hinv.active_inited (by simp [State.active, hs])
    cases hi.symm.trans hinited

/-- Settles O31: the third situation is the first, by R29. -/
theorem tickWithoutSessionDoesNothing : Obligations.TickWithoutSessionDoesNothing := by
  rintro s (hs | hf | ⟨hinv, hi⟩)
  · exact exec_tick_of_no_session hs
  · exact exec_tick_of_fatal hf
  · exact exec_tick_of_no_session (hinv.no_session hi)

/-! ### The window over the padded text -/

theorem window_before (x : Session) {p : Nat} (hp : p < 4) : window x p = (32, false) := if_pos hp

theorem window_text (x : Session) {j : Nat} (hj : j < x.len) : window x (j + 4) = x.tb[j] := by
  simp [window, hj]

theorem window_after (x : Session) {p : Nat} (hp : 4 + x.len ≤ p) : window x p = (32, false) := by
  have hbefore : ¬ p < 4 := by omega
  have htext : ¬ p - 4 < x.len := by omega
  exact (if_neg hbefore).trans (dif_neg htext)

/-- R134, R135: slot `i` of the frame of step `k` shows position `k + i`. -/
theorem windowText_getElem? (x : Session) (k : Nat) {i : Nat} (hi : i < 4) :
    (windowText x k)[i]? = some (window x (k + i)).1 := by
  match i, hi with
  | 0, _ | 1, _ | 2, _ | 3, _ => rfl

theorem windowDots_getElem? (x : Session) (k : Nat) {i : Nat} (hi : i < 4) :
    (windowDots x k)[i]? = some (window x (k + i)).2 := by
  match i, hi with
  | 0, _ | 1, _ | 2, _ | 3, _ => rfl

/-- Settles O32: the three ranges and the slots by their lemmas; at step `j + 4 - i` slot `i` shows position `j + 4`,
which is character `j`. -/
theorem windowSlidesOverPaddedText : Obligations.WindowSlidesOverPaddedText := by
  refine fun x => ⟨fun p hp => window_before x hp, fun p hlo hhi => ?_, fun p hp => window_after x hp,
    fun k i hi => ⟨windowText_getElem? x k hi, windowDots_getElem? x k hi⟩, fun j hj i hi => ?_, by omega⟩
  · obtain ⟨j, rfl⟩ := Nat.exists_eq_add_of_le' hlo
    have hj : j < x.len := by omega
    rw [window_text x hj, Nat.add_sub_cancel, List.getElem?_eq_getElem hj]
  · have hpos : j + 4 - i + i = j + 4 := by omega
    rw [windowText_getElem? x _ hi, windowDots_getElem? x _ hi, hpos, window_text x hj, List.getElem?_eq_getElem hj]
    exact ⟨rfl, rfl⟩

end Sys2Proof.Machine
end

section
/-! SUPPORT. The refusals (60_exceptions.md R152 to R157): the rule of an admitted command, a `SCROLL` that is too long,
what a reserved first byte decodes to, and what no operation but reset changes in the fatal state; and O27, O38, O39, O40
and O41 from them. -/

namespace Sys2Proof

/-- R65: a first byte 0x00 or 0x09 to 0xFF selects no command's line, whatever follows it. -/
theorem decode_of_reserved {op : Byte} (p : List Byte) (h : op = 0x00#8 ∨ 0x09#8 ≤ op) :
    decode (op :: p) = .instr (.reservedOpcode op) := by
  have hno : ∀ k : Byte, 0x01#8 ≤ k → k ≤ 0x08#8 → op ≠ k := by bv_omega
  simp [decode, hno]

/-- R61: a well-formed `SCROLL` has a text whose length its count field holds. -/
theorem scroll_length_le {stop : Bool} {text : List Int} {dots : List Bool} {ivl : Word}
    (h : (Instr.scroll stop text dots ivl).wellFormed = true) : text.length ≤ 65535 := by
  simp only [Instr.wellFormed, Bool.and_eq_true, decide_eq_true_eq] at h
  obtain ⟨⟨hlen, _⟩, _⟩ := h
  exact hlen

end Sys2Proof

namespace Sys2Proof.Machine

/-! ### Refusals outside the fatal state -/

theorem whenAdmitted_of_admitted (op : Byte) {s : State} (rule : State → State) (hf : s.fatal = false)
    (hi : s.inited = true) : whenAdmitted op s rule = rule s := by
  simp [whenAdmitted, hf, hi]

/-- R157: `E_TOOLONG` and its count are all that a `SCROLL` beyond `TEXT_MAX` leaves. -/
theorem scrollRule_of_too_long (stop : Bool) {text : List Int} (dots : List Bool) (ivl : Word) {s : State}
    (h : s.cfg.textMax < text.length) :
    scrollRule stop text dots ivl s = refused .tooLong (BitVec.ofNat 16 text.length) s :=
  if_pos h

/-- Settles O27: the command is admitted and its rule refuses the text; the count is exact because the packet's count
field already held it. -/
theorem tooLongScrollIsRefused : Obligations.TooLongScrollIsRefused := by
  intro stop text dots ivl s hwf hf hi hlong
  have hlen : text.length ≤ 65535 := scroll_length_le hwf
  refine ⟨?_, (BitVec.toNat_ofNat ..).trans (Nat.mod_eq_of_lt (by omega))⟩
  rw [exec, execScroll, whenAdmitted_of_admitted _ _ hf hi, scrollRule_of_too_long stop dots ivl hlong]
  rfl

/-- Settles O39: R101's third test; an opcode from 0x02 on is not `INIT`'s. -/
theorem commandBeforeInitIsRefused : Obligations.CommandBeforeInitIsRefused := by
  intro i op s hop hlo _ hknown hf hi
  have hinit : op ≠ 0x01#8 := by bv_omega
  exact exec_command_of_not_inited hop hinit hknown hf hi

/-- Settles O40: the packet decodes to the reserved opcode whatever follows its first byte, and R155 answers that. -/
theorem reservedOpcodeIsBadOp : Obligations.ReservedOpcodeIsBadOp := by
  refine ⟨fun op p rest s hop hf hin => ?_, fun op s hf => exec_reservedOpcode_of_alive op hf⟩
  rw [step_packet_instr hin (decode_of_reserved p hop)]
  exact exec_reservedOpcode_of_alive (s := { s with input := rest }) op hf

/-- Settles O41: R101's second test, for what `decode` refuses and for the empty packet. -/
theorem illFormedPacketIsMalformed : Obligations.IllFormedPacketIsMalformed :=
  ⟨fun _ _ _ _ hd hf hin => step_malformed_of_alive hin hf hd, fun _ hf => exec_emptyPacket_of_alive hf⟩

/-! ### The fatal state -/

/-- R152: in the fatal state no operation but reset leaves it or puts a transaction on the trace; the effects that do
are those of an admitted operation. -/
theorem effect_of_fatal {i : Instr} {s t : State} (he : Effect i s t) (hi : i ≠ .reset) (hf : s.fatal = true) :
    t.fatal = true ∧ busBytes t.trace = busBytes s.trace := by
  cases he with
  | refused _ _ cause info => exact ⟨hf, busBytes_refused cause info s⟩
  | same | lookupGlyph | serializeFrame => exact ⟨hf, rfl⟩
  | encodeText text => exact ⟨hf, busBytes_logged text s⟩
  | reset => exact absurd rfl hi
  | _ => exact absurd (hf.symm.trans ‹s.fatal = false›) (by decide)

/-- R152, R182: without a bus the only record of the reset's new trace is `Err(E_NOBUS, 0)`. -/
theorem resetRule_records_of_no_bus {s : State} (hbus : s.cfg.busPresent = false) :
    ((resetRule s).trace.filter fun e => decide (outputKind e = some 1)) = [.err .noBus 0x0000#16] := by
  rw [resetRule_trace, hbus]
  cases s.active <;> rfl

/-- Settles O38: the reset's registers by their lemmas, a packet by R101's first test, every other operation by its
effect; the lookup port reads no register. -/
theorem fatalStateAnswersNoBus : Obligations.FatalStateAnswersNoBus := by
  refine ⟨fun s t h => ?_, fun s p rest hf hin => step_packet_of_fatal hin hf, fun s => exec_tick_of_fatal,
    fun i s t hi hf h => ?_, fun c s _ => ⟨_, rfl, rfl⟩⟩
  · cases h
    refine ⟨by simp, rfl, fun hbus => ⟨by simp [hbus], resetRule_records_of_no_bus hbus⟩⟩
  · have he : Effect i s t := exec_effect h
    obtain ⟨hfatal, hbytes⟩ := effect_of_fatal he hi hf
    exact ⟨hfatal, effect_cfg he, hbytes⟩

end Sys2Proof.Machine
end

section
/-! SUPPORT. The reset event (70_reset_and_hazards.md R181): what the commands after it find, and O35. -/

namespace Sys2Proof.Machine

/-- R181: with a bus present a reset leaves the fatal state, or stays outside it. -/
theorem resetRule_alive {s : State} (hbus : s.cfg.busPresent = true) : (resetRule s).fatal = false := by
  rw [resetRule_fatal, hbus, Bool.not_true]

/-- R102: `INIT` leaves the clamped level in `bright`. -/
@[simp] theorem initRule_bright (level rate : Int) (s : State) :
    (initRule level rate s).bright = some (clampLevel level) := by
  rw [initRule_eq]

/-- Settles O35: the registers are those of `resetRule`; with a bus, `SETBRIGHT` then fails R101's third test, and
`INIT`, which has no such test, runs its rule. -/
theorem resetRegisters : Obligations.ResetRegisters := by
  intro s
  refine ⟨resetRule s, rfl, rfl, rfl, rfl, rfl, rfl, resetRule_fatal s, resetRule_status s, rfl, rfl,
    fun level hbus => ?_, fun level rate hbus => ?_⟩
  · exact exec_command_of_not_inited (i := .setbright level) rfl (by decide) (by simp) (resetRule_alive hbus)
      (resetRule_inited s)
  · exact ⟨initRule level rate (resetRule s), exec_init_of_alive level rate (resetRule_alive hbus),
      initRule_bright level rate _⟩

end Sys2Proof.Machine
end

section
/-! SUPPORT. The decoder and the encoder as wholes (30_encoding.md R52 to R64): the part of a packet that holds a text
and its flags is read back, so O1; what is read is in range, so O2; the value of an operand, O7; and ten words of the
spec, O4. -/

namespace Sys2Proof

/-! ### A text and its flags -/

/-- A flag list is read back from its packed bytes. -/
theorem flags_packFlags (dots : List Bool) : flags dots.length (packFlags dots) = dots := by
  refine List.ext_getElem? fun j => ?_
  by_cases hj : j < dots.length
  · rw [flags_getElem? _ hj, packFlags_bit hj, List.getD_eq_getElem _ _ hj, List.getElem?_eq_getElem hj]
  · rw [List.getElem?_eq_none (by simpa using hj), List.getElem?_eq_none (by simpa using hj)]

/-- The operand bytes that `WRTEXT` and `SCROLL` share: the characters, then the packed flags (R59, R61). -/
def textBytes (text : List Int) (dots : List Bool) : List Byte := text.flatMap intBytes ++ packFlags dots

theorem textBytes_length (text : List Int) (dots : List Bool) :
    (textBytes text dots).length = 2 * text.length + flagBytes dots.length := by
  rw [textBytes, List.length_append, Laws.charBytes_length, packFlags_length]

theorem chars_textBytes {text : List Int} (dots : List Bool) (h : text.all fitsInt16 = true) :
    chars text.length (textBytes text dots) = text :=
  chars_charBytes text (List.all_eq_true.mp h) _

theorem flags_textBytes (text : List Int) (dots : List Bool) :
    flags dots.length ((textBytes text dots).drop (2 * text.length)) = dots := by
  rw [textBytes, List.drop_left' (Laws.charBytes_length text), flags_packFlags]

/-- A count is read back from its byte. -/
theorem ofNat8_toNat {n : Nat} (h : n ≤ 255) : (BitVec.ofNat 8 n).toNat = n := by
  rw [BitVec.toNat_ofNat]
  omega

/-- A count is read back from its word. -/
theorem ofNat16_toNat {n : Nat} (h : n ≤ 65535) : (BitVec.ofNat 16 n).toNat = n := by
  rw [BitVec.toNat_ofNat]
  omega

theorem decodeWrtext_bytes {text : List Int} {dots : List Bool} (h : (Instr.wrtext text dots).wellFormed = true) :
    decodeWrtext (BitVec.ofNat 8 text.length :: BitVec.ofNat 8 dots.length :: textBytes text dots)
      = .instr (.wrtext text dots) := by
  simp only [Instr.wellFormed, Bool.and_eq_true, decide_eq_true_eq] at h
  obtain ⟨⟨htext, hdots⟩, hfit⟩ := h
  simp only [decodeWrtext, ofNat8_toNat htext, ofNat8_toNat hdots, textBytes_length, chars_textBytes dots hfit,
    flags_textBytes, if_true]

theorem decodeScroll_bytes {stop : Bool} {text : List Int} {dots : List Bool} {ivl : Word}
    (h : (Instr.scroll stop text dots ivl).wellFormed = true) :
    decodeScroll ((if stop then 0x01#8 else 0x00#8) :: loByte ivl :: hiByte ivl
        :: loByte (BitVec.ofNat 16 text.length) :: hiByte (BitVec.ofNat 16 text.length)
        :: loByte (BitVec.ofNat 16 dots.length) :: hiByte (BitVec.ofNat 16 dots.length) :: textBytes text dots)
      = .instr (.scroll stop text dots ivl) := by
  simp only [Instr.wellFormed, Bool.and_eq_true, decide_eq_true_eq] at h
  obtain ⟨⟨htext, hdots⟩, hfit⟩ := h
  have hreserved : ((if stop then 0x01#8 else 0x00#8 : Byte).extractLsb' 1 7) = 0#7 := by cases stop <;> rfl
  have hstop : (if stop then 0x01#8 else 0x00#8 : Byte).getLsbD 0 = stop := by cases stop <;> rfl
  simp only [decodeScroll, hreserved, hstop, word16_bytes, ofNat16_toNat htext, ofNat16_toNat hdots,
    textBytes_length, chars_textBytes dots hfit, flags_textBytes, ne_eq, not_true_eq_false, if_false, if_true]

/-- A reserved opcode is none of the eight commands' (R65). -/
theorem reserved_of_wellFormed {op : Byte} (h : (Instr.reservedOpcode op).wellFormed = true) :
    op = 0x00#8 ∨ 0x09#8 ≤ op := by
  simpa [Instr.wellFormed] using h

/-- Settles O1: each command's line reads back what its layout wrote, operand by operand. -/
theorem decodeEncodeRoundTrip : Obligations.DecodeEncodeRoundTrip := by
  intro i p hwf he
  cases i with
  | init level rate =>
    cases he
    simp only [Instr.wellFormed, Bool.and_eq_true] at hwf
    obtain ⟨hlevel, hrate⟩ := hwf
    exact congrArg Decoded.instr (congrArg₂ Instr.init (sext16_bytes level hlevel) (sext16_bytes rate hrate))
  | setblink rate =>
    cases he
    exact congrArg (Decoded.instr ∘ Instr.setblink) (sext16_bytes rate hwf)
  | setbright level =>
    cases he
    exact congrArg (Decoded.instr ∘ Instr.setbright) (sext16_bytes level hwf)
  | wrframe f =>
    cases he
    change Decoded.instr (.wrframe ⟨word16 _ _, word16 _ _, word16 _ _, word16 _ _⟩) = _
    simp only [word16_bytes]
  | wrtext text dots =>
    cases he
    exact decodeWrtext_bytes hwf
  | scroll stop text dots ivl =>
    cases he
    rw [List.append_assoc]
    exact decodeScroll_bytes hwf
  | clear | scrstop | emptyPacket =>
    cases he
    rfl
  | reservedOpcode op =>
    cases he
    exact decode_of_reserved [] (reserved_of_wellFormed hwf)
  | _ => cases he

/-! ### What is read is in range -/

theorem chars_all_fit (n : Nat) (p : List Byte) : (chars n p).all fitsInt16 = true :=
  List.all_eq_true.mpr (chars_fit n p).2

/-- A text and its flags that are read have no more entries than their counts say. -/
theorem wrtext_read_wellFormed (n m : Byte) (p q : List Byte) :
    (Instr.wrtext (chars n.toNat p) (flags m.toNat q)).wellFormed = true := by
  have hn : (chars n.toNat p).length ≤ n.toNat := (chars_fit n.toNat p).1
  have := n.isLt
  have := m.isLt
  simp only [Instr.wellFormed, chars_all_fit, flags_length, Bool.and_eq_true, decide_eq_true_eq, and_true]
  omega

theorem scroll_read_wellFormed (stop : Bool) (n m ivl : Word) (p q : List Byte) :
    (Instr.scroll stop (chars n.toNat p) (flags m.toNat q) ivl).wellFormed = true := by
  have hn : (chars n.toNat p).length ≤ n.toNat := (chars_fit n.toNat p).1
  have := n.isLt
  have := m.isLt
  simp only [Instr.wellFormed, chars_all_fit, flags_length, Bool.and_eq_true, decide_eq_true_eq, and_true]
  omega

/-- What no command's line reads is a reserved opcode. -/
theorem reserved_wellFormed {op : Byte} (h1 : op ≠ 0x01#8) (h2 : op ≠ 0x02#8) (h3 : op ≠ 0x03#8) (h4 : op ≠ 0x04#8)
    (h5 : op ≠ 0x05#8) (h6 : op ≠ 0x06#8) (h7 : op ≠ 0x07#8) (h8 : op ≠ 0x08#8) :
    (Instr.reservedOpcode op).wellFormed = true := by
  simp only [Instr.wellFormed, Bool.or_eq_true, decide_eq_true_eq]
  bv_omega

/-- Settles O2: the signed operands by `sext16_fits`, the lists by their counts, a reserved opcode by the tests before
it. -/
theorem decodeIsWellFormed : Obligations.DecodeIsWellFormed := by
  intro p i h
  cases p with
  | nil =>
    cases h
    rfl
  | cons op q =>
    simp only [decode] at h
    split_ifs at h with h1 h2 h3 h4 h5 h6 h7 h8
    · unfold decodeInit at h
      split at h <;> cases h
      simp [Instr.wellFormed, sext16_fits]
    · unfold decodeSetblink at h
      split at h <;> cases h
      exact sext16_fits _ _
    · unfold decodeSetbright at h
      split at h <;> cases h
      exact sext16_fits _ _
    · unfold decodeWrframe at h
      split at h <;> cases h
      rfl
    · unfold decodeWrtext at h
      split at h
      · split_ifs at h
        cases h
        exact wrtext_read_wellFormed _ _ _ _
      · cases h
    · unfold decodeClear at h
      split at h <;> cases h
      rfl
    · unfold decodeScroll at h
      split at h
      · split_ifs at h
        cases h
        exact scroll_read_wellFormed _ _ _ _ _ _
      · cases h
    · unfold decodeScrstop at h
      split at h <;> cases h
      rfl
    · cases h
      exact reserved_wellFormed h1 h2 h3 h4 h5 h6 h7 h8

/-! ### Operands and words of the spec -/

/-- Settles O7: the value of two bytes as a natural number and its signed reading, the bytes of an integer in range,
and `INIT`'s line of the decoder. -/
theorem operandsAreLowByteFirst : Obligations.OperandsAreLowByteFirst := by
  refine ⟨fun lo hi => ⟨word16_toNat lo hi, ?_⟩, fun v hlo hhi => ⟨_, _, rfl, sext16_bytes v ?_⟩, fun _ _ _ _ => rfl⟩
  · rw [sext16, BitVec.toInt_eq_toNat_cond, word16_toNat]
    split_ifs <;> omega
  · simp [fitsInt16, hlo, hhi]

/-- Settles O4: the decoders run on ten words. -/
theorem specWordsDecode : Obligations.SpecWordsDecode := by
  refine ⟨?_, ?_, ?_, ?_, ?_, ?_, ?_, ?_, ?_, ?_⟩ <;> decide

end Sys2Proof
end

section
/-! SUPPORT. A step as one effect (10_state.md R26): which operation an event can stand for, and the package "every
effect keeps it, so every step keeps it" that the invariants below are proved with. -/

namespace Sys2Proof.Machine

/-- The operations that only the model's own unit events ask for (log entry 9). -/
def isUnitInstr : Instr → Bool
  | .wOsc => true
  | .wBlink _ => true
  | .wBright _ => true
  | .wFrame _ => true
  | .lookupGlyph _ => true
  | .encodeText _ _ => true
  | .serializeFrame _ => true
  | _ => false

/-- What an event tells of the operation it stands for: its operands are in range, an event of R26 is no unit
operation, and only the reset event resets. -/
structure StandsFor (e : Event) (i : Instr) : Prop where
  wellFormed : i.wellFormed = true
  spec : specEvent e = true → isUnitInstr i = false
  reset : i = .reset → e = .reset

/-- The empty packet's operation, as which an ill-formed packet counts, tells nothing of its event. -/
theorem standsFor_emptyPacket (e : Event) : StandsFor e .emptyPacket where
  wellFormed := rfl
  spec := fun _ => rfl
  reset := fun h => by cases h

theorem fetch_standsFor {e : Event} {i : Instr} (h : fetch e = .instr i) : StandsFor e i := by
  cases e with
  | cmd p =>
    have hcommand : isUnitInstr i = false ∧ i ≠ .reset := by
      rcases decode_opcode h with ⟨_, rfl⟩ | ⟨op, rest, _, hop, _⟩
      · simp [isUnitInstr]
      · cases i <;> simp_all [isUnitInstr, opcodeByte]
    obtain ⟨hunit, hreset⟩ := hcommand
    exact ⟨decodeIsWellFormed p i h, fun _ => hunit, fun hr => absurd hr hreset⟩
  | tick =>
    cases h
    exact ⟨rfl, fun _ => rfl, fun hr => by cases hr⟩
  | reset =>
    cases h
    exact ⟨rfl, fun _ => rfl, fun _ => rfl⟩
  | unit u =>
    cases h
    exact ⟨by cases u <;> rfl, fun hspec => (by cases hspec), fun hr => (by cases u <;> cases hr)⟩

/-- What a step can do, as one effect: wait, or take its oldest event and have an effect of the operation the event
stands for. -/
theorem step_effect {s t : State} (h : step s = .next t) :
    (s.input = [] ∧ t = s) ∨
    ∃ e rest i, s.input = e :: rest ∧ StandsFor e i ∧ Effect i { s with input := rest } t := by
  rcases step_cases h with ⟨hin, ht⟩ | ⟨e, rest, i, hin, hf, he⟩ | ⟨e, rest, cause, info, hin, _, hc, rfl⟩
  · exact .inl ⟨hin, ht⟩
  · exact .inr ⟨e, rest, i, hin, fetch_standsFor hf, he⟩
  · exact .inr ⟨e, rest, .emptyPacket, hin, standsFor_emptyPacket e, .refused _ _ _ _ ⟨by simp, by simp, hc⟩⟩

/-- A property that does not depend on the pending events, and that every effect keeps, is kept by every step. -/
theorem step_keeps {P : State → Prop} (hpop : ∀ s rest, P s → P { s with input := rest })
    (heff : ∀ i s t, i.wellFormed = true → Effect i s t → P s → P t) {s t : State} (h : P s)
    (hstep : step s = .next t) : P t := by
  rcases step_effect hstep with ⟨_, rfl⟩ | ⟨e, rest, i, _, hi, he⟩
  · exact h
  · exact heff i _ t hi.wellFormed he (hpop s rest h)

/-- A step whose oldest event is no reset waits, or has the effect of an operation other than reset. -/
theorem step_effect_of_no_reset {s t : State} (h : step s = .next t) (hr : s.input.head? ≠ some .reset) :
    t = s ∨ ∃ rest i, i ≠ .reset ∧ Effect i { s with input := rest } t := by
  rcases step_effect h with ⟨_, rfl⟩ | ⟨e, rest, i, hin, hi, he⟩
  · exact .inl rfl
  · refine .inr ⟨rest, i, fun hreset => hr ?_, he⟩
    rw [hin, hi.reset hreset]
    rfl

/-- Settles O42: a step matches on the head of its input, and each event on what it stands for. -/
theorem stepRunsOldestEvent : Obligations.StepRunsOldestEvent := by
  refine fun s rest => ⟨fun p i hin hd => step_packet_instr hin hd, fun hin => ?_, fun hin => ?_, fun u hin => ?_,
    fun hin => ?_⟩ <;> simp only [step, hin, fetch]

/-- No meaning refuses (R160). -/
theorem exec_completes (i : Instr) (s : State) : ∃ t, exec i s = .next t := by
  cases i <;> exact ⟨_, rfl⟩

/-- Settles O43: no meaning refuses, and waiting and the rejection of a packet are next states too. -/
theorem everyStepCompletes : Obligations.EveryStepCompletes := by
  intro s
  unfold step
  split
  · exact ⟨_, rfl⟩
  · split
    · exact exec_completes _ _
    · exact ⟨_, rfl⟩

end Sys2Proof.Machine
end

section
/-! SUPPORT. What an operation never does (10_state.md R12, R16, R17, R28): the writers of `inited` and of the session,
the sticky bits of `status`, the growing trace; O46, O47, O48 and O49. -/

namespace Sys2Proof.Machine

/-- Settles O46: of the effects, only `INIT`'s and the reset's write `inited`. -/
theorem onlyInitEnables : Obligations.OnlyInitEnables := by
  intro i s t h hw
  cases exec_effect h with
  | init level rate => exact .inl ⟨rfl, level, rate, rfl⟩
  | reset => exact .inr ⟨rfl, rfl⟩
  | _ => exact absurd rfl hw

/-- Settles O47: the effects that write the session are those of the operations listed. -/
theorem onlyScrollAndContentTouchSession : Obligations.OnlyScrollAndContentTouchSession := by
  intro i s t h hw
  cases exec_effect h with
  | reset | tickSend | tickWrap | tickEnd | scrstop | clear | wrframe | wrtext | scroll => simp
  | _ => exact absurd rfl hw

/-! ### What only grows -/

/-- `t` has every status bit of `s`, and its trace goes on from the trace of `s`. -/
def Extends (s t : State) : Prop := s.status &&& t.status = s.status ∧ s.trace <+: t.trace

theorem and_or_absorb (a m : BitVec 8) : a &&& (a ||| m) = a := by
  refine BitVec.eq_of_getLsbD_eq fun k _ => ?_
  rw [BitVec.getLsbD_and, BitVec.getLsbD_or]
  cases a.getLsbD k <;> rfl

theorem Extends.refl (s : State) : Extends s s :=
  ⟨BitVec.and_self, List.prefix_rfl⟩

/-- Bits set and events appended extend a state. -/
theorem Extends.of_or_append {s t u : State} {m : BitVec 8} {new : List Output} (h : Extends s t)
    (hs : u.status = t.status ||| m) (ht : u.trace = t.trace ++ new) : Extends s u := by
  obtain ⟨hstatus, htrace⟩ := h
  have hkept : s.status &&& (t.status &&& u.status) = s.status := by rw [hs, and_or_absorb, hstatus]
  rw [← BitVec.and_assoc, hstatus] at hkept
  exact ⟨hkept, ht ▸ htrace.trans (List.prefix_append _ _)⟩

/-- Events appended extend a state. -/
theorem Extends.of_append {s t u : State} {new : List Output} (h : Extends s t) (hs : u.status = t.status)
    (ht : u.trace = t.trace ++ new) : Extends s u :=
  h.of_or_append (hs.trans BitVec.or_zero.symm) ht

theorem Extends.refused {s t : State} (h : Extends s t) (cause : Cause) (info : Word) :
    Extends s (refused cause info t) :=
  h.of_or_append rfl rfl

theorem Extends.sessionEnded {s t : State} (h : Extends s t) : Extends s (sessionEnded t) :=
  h.of_append rfl rfl

/-- An answer sets `status[2]` or nothing (R153). -/
theorem answerStatus_eq_or (a : BusAnswer) (status : BitVec 8) : ∃ m, answerStatus a status = status ||| m := by
  cases a with
  | ok => exact ⟨0#8, BitVec.or_zero.symm⟩
  | fail e => exact ⟨0x04#8, rfl⟩

theorem Extends.sent {s t : State} (h : Extends s t) (bytes : List Byte) (dev : Device → Device) :
    Extends s (sent bytes dev t) := by
  obtain ⟨m, hm⟩ := answerStatus_eq_or (nextAnswer t) t.status
  exact h.of_or_append hm rfl

theorem Extends.logged {s t : State} (h : Extends s t) (text : List Int) : Extends s (logged text t) := by
  by_cases hu : unmappedSlots text = []
  · exact h.of_append (by simp [Machine.logged, hu]) rfl
  · exact h.of_or_append (m := 0x80#8) (by simp [Machine.logged, hu]) rfl

/-- Apart from reset, every operation only sets bits and appends events; `Extends` reads `status` and `trace` alone,
so `id` may stand for what a transaction writes in the device. -/
theorem effect_extends {i : Instr} {s t : State} (he : Effect i s t) (hi : i ≠ .reset) : Extends s t := by
  have h : Extends s s := .refl s
  cases he with
  | refused _ _ cause info => exact h.refused cause info
  | init => exact ((h.sent _ id).sent _ id).sent _ id
  | setblink | setbright | wOsc | wBlink | wBright | wFrame => exact h.sent _ id
  | wrframe | clear => exact h.sessionEnded.sent _ id
  | wrtext text => exact (h.sessionEnded.logged text).sent _ id
  | scroll _ _ _ ivl => exact h.sessionEnded.of_append (new := [.timerArm ivl]) rfl rfl
  | scrstop | tickEnd => exact h.sessionEnded
  | tickSend => exact (h.logged _).sent _ id
  | encodeText text => exact h.logged text
  | same | tickWrap | lookupGlyph | serializeFrame => exact h
  | reset => exact absurd rfl hi

theorem step_extends {s t : State} (h : step s = .next t) (hr : s.input.head? ≠ some .reset) : Extends s t := by
  rcases step_effect_of_no_reset h hr with rfl | ⟨rest, i, hi, he⟩
  · exact .refl t
  · exact effect_extends (s := { s with input := rest }) he hi

/-- Settles O48: what a step leaves extends what it found. -/
theorem statusBitsAreSticky : Obligations.StatusBitsAreSticky :=
  fun _ _ h hr => (step_extends h hr).left

/-- Settles O49: what a step leaves extends what it found. -/
theorem traceOnlyGrows : Obligations.TraceOnlyGrows :=
  fun _ _ h hr => (step_extends h hr).right

end Sys2Proof.Machine
end

section
/-! SUPPORT. The status register and the records of the trace (30_encoding.md R73, 60_exceptions.md R151): what each
shared operation adds to both, and O54. -/

namespace Sys2Proof.Machine

/-- The bit of one cause. -/
theorem ofNat_two_pow_bit (k j : Nat) (hk : k < 8) (hj : j < 8) :
    (BitVec.ofNat 8 (2 ^ j)).getLsbD k = decide (k = j) := by
  have h := setStatus_bit 0#8 k j hk hj
  rwa [setStatus, BitVec.zero_or, BitVec.getLsbD_zero, Bool.false_or] at h

/-- Bits set and events appended keep the two together where the bits are the kinds of the events' records. -/
theorem StatusMirrorsTrace.append {s t : State} {m : BitVec 8} {new : List Output} (h : StatusMirrorsTrace s)
    (hs : t.status = s.status ||| m) (ht : t.trace = s.trace ++ new)
    (hnew : ∀ k < 8, m.getLsbD k = hasKind k new) : StatusMirrorsTrace t := by
  intro k hk
  rw [hs, ht, hasKind_append, BitVec.getLsbD_or, h k hk, hnew k hk]

/-- Events without a record leave the status register alone. -/
theorem StatusMirrorsTrace.append_silent {s t : State} {new : List Output} (h : StatusMirrorsTrace s)
    (hs : t.status = s.status) (ht : t.trace = s.trace ++ new) (hnew : ∀ e ∈ new, outputKind e = none) :
    StatusMirrorsTrace t := by
  refine h.append (hs.trans BitVec.or_zero.symm) ht fun k _ => ?_
  rw [BitVec.getLsbD_zero, hasKind, eq_comm, List.any_eq_false]
  intro e he
  simp [hnew e he]

theorem causeCode_lt (cause : Cause) : causeCode cause < 8 := by
  cases cause <;> decide

/-- The kind of one error record. -/
theorem hasKind_err (k : Nat) (cause : Cause) (info : Word) :
    hasKind k [.err cause info] = decide (k = causeCode cause) := by
  simp [hasKind, outputKind, eq_comm]

theorem StatusMirrorsTrace.refused {s : State} (h : StatusMirrorsTrace s) (cause : Cause) (info : Word) :
    StatusMirrorsTrace (refused cause info s) :=
  h.append rfl rfl fun k hk => (ofNat_two_pow_bit k _ hk (causeCode_lt cause)).trans (hasKind_err k cause info).symm

theorem StatusMirrorsTrace.sessionEnded {s : State} (h : StatusMirrorsTrace s) : StatusMirrorsTrace (sessionEnded s) :=
  h.append_silent rfl rfl (by cases s.active <;> simp [outputKind])

/-- A transaction has no record; the bus's answer has its own (R153). -/
theorem StatusMirrorsTrace.sent {s : State} (h : StatusMirrorsTrace s) (bytes : List Byte) (dev : Device → Device) :
    StatusMirrorsTrace (sent bytes dev s) := by
  have htrace := sent_trace bytes dev s
  have hstatus := sent_status bytes dev s
  cases ha : nextAnswer s with
  | ok =>
    rw [ha] at htrace hstatus
    exact h.append_silent hstatus htrace (by simp [answerRecords, outputKind])
  | fail e =>
    rw [ha] at htrace hstatus
    refine h.append hstatus htrace fun k hk => ?_
    exact (ofNat_two_pow_bit k 2 hk (by decide)).trans (hasKind_err k .busErr e).symm

/-- The kind of the records of logged characters, if there are any. -/
theorem hasKind_log (k : Nat) {cs : List Int} (h : cs ≠ []) : hasKind k (cs.map .log) = decide (k = 7) := by
  have hany : hasKind k (cs.map .log) = cs.any fun _ => decide (k = 7) := by
    simp only [hasKind, List.any_map, Function.comp_def, outputKind, Option.some.injEq, eq_comm]
  obtain ⟨c, hc⟩ := List.exists_mem_of_ne_nil cs h
  rw [hany, Bool.eq_iff_iff, List.any_eq_true]
  exact ⟨fun ⟨_, _, hk⟩ => hk, fun hk => ⟨c, hc, hk⟩⟩

theorem StatusMirrorsTrace.logged {s : State} (h : StatusMirrorsTrace s) (text : List Int) :
    StatusMirrorsTrace (logged text s) := by
  by_cases hu : unmappedSlots text = []
  · exact h.append_silent (new := []) (by simp [Machine.logged, hu]) (by simp [Machine.logged, hu]) (by simp)
  · refine h.append (m := 0x80#8) (by simp [Machine.logged, hu]) rfl fun k hk => ?_
    rw [hasKind_log k hu]
    exact ofNat_two_pow_bit k 7 hk (by decide)

/-- A reset starts both anew (R181, R182). -/
theorem statusMirrorsTrace_resetRule (s : State) : StatusMirrorsTrace (resetRule s) := by
  intro k hk
  rw [resetRule_status, resetRule_trace, hasKind_append]
  cases s.cfg.busPresent <;> cases s.active <;> interval_cases k <;> rfl

/-- Every operation keeps the two together; the invariant reads `status` and `trace` alone, so `id` may stand for
what a transaction writes in the device. -/
theorem effect_statusMirrorsTrace {i : Instr} {s t : State} (he : Effect i s t) (h : StatusMirrorsTrace s) :
    StatusMirrorsTrace t := by
  cases he with
  | refused _ _ cause info => exact h.refused cause info
  | init => exact ((h.sent _ id).sent _ id).sent _ id
  | setblink | setbright | wOsc | wBlink | wBright | wFrame => exact h.sent _ id
  | wrframe | clear => exact h.sessionEnded.sent _ id
  | wrtext text => exact (h.sessionEnded.logged text).sent _ id
  | scroll _ _ _ ivl => exact h.sessionEnded.append_silent (new := [.timerArm ivl]) rfl rfl (by simp [outputKind])
  | scrstop | tickEnd => exact h.sessionEnded
  | tickSend => exact (h.logged _).sent _ id
  | encodeText text => exact h.logged text
  | same | tickWrap | lookupGlyph | serializeFrame => exact h
  | reset => exact statusMirrorsTrace_resetRule s

/-- Settles O54: every effect keeps it, and it reads no pending event. -/
theorem stepKeepsStatusAndTraceTogether : Obligations.StepKeepsStatusAndTraceTogether :=
  fun _ _ h hstep => step_keeps (fun _ _ h => h) (fun _ _ _ _ he => effect_statusMirrorsTrace he) h hstep

end Sys2Proof.Machine
end

section
/-! SUPPORT. The timer and the session (43_scroll_engine.md R144): each effect moves both together, and O55. -/

namespace Sys2Proof.Machine

/-- A session's end leaves neither a session nor an armed timer. -/
theorem TimerMirrorsSession.sessionEnded {s : State} (h : TimerMirrorsSession s) :
    TimerMirrorsSession (sessionEnded s) :=
  timerArmed_sessionEnded s h

/-- Where the armed timer and the session stay as they are, they stay together. -/
theorem TimerMirrorsSession.of_eq {s t : State} (h : TimerMirrorsSession s)
    (ht : timerArmed t.trace = timerArmed s.trace) (hs : t.active = s.active) : TimerMirrorsSession t :=
  (ht.trans h).trans hs.symm

theorem TimerMirrorsSession.sent {s : State} (h : TimerMirrorsSession s) (bytes : List Byte) (dev : Device → Device) :
    TimerMirrorsSession (sent bytes dev s) :=
  h.of_eq (timerArmed_sent bytes dev s) rfl

theorem TimerMirrorsSession.logged {s : State} (h : TimerMirrorsSession s) (text : List Int) :
    TimerMirrorsSession (logged text s) :=
  h.of_eq (timerArmed_logged text s) rfl

/-- A reset ends the session, and nothing is armed on its new trace. -/
theorem timerMirrorsSession_resetRule (s : State) : TimerMirrorsSession (resetRule s) := by
  rw [TimerMirrorsSession, resetRule_trace]
  cases s.active <;> cases s.cfg.busPresent <;> rfl

/-- Every operation keeps the two together: a `SCROLL` arms and opens, a session's end cancels and closes, a tick that
goes on does neither. -/
theorem effect_timerMirrorsSession {i : Instr} {s t : State} (he : Effect i s t) (h : TimerMirrorsSession s) :
    TimerMirrorsSession t := by
  cases he with
  | refused _ _ cause info => exact h.of_eq (timerArmed_refused cause info s) rfl
  | init => exact ((h.sent _ id).sent _ id).sent _ id
  | setblink | setbright | wOsc | wBlink | wBright | wFrame => exact h.sent _ id
  | wrframe | clear => exact h.sessionEnded.sent _ id
  | wrtext text => exact (h.sessionEnded.logged text).sent _ id
  | scroll => exact timerArmed_append _ _
  | scrstop | tickEnd => exact h.sessionEnded
  | tickSend x _ _ hx =>
    exact ((h.logged (windowText x x.step)).sent _ id).of_eq rfl (congrArg Option.isSome hx).symm
  | tickWrap x _ _ hx => exact h.of_eq rfl (congrArg Option.isSome hx).symm
  | encodeText text => exact h.logged text
  | same | lookupGlyph | serializeFrame => exact h
  | reset => exact timerMirrorsSession_resetRule s

/-- Settles O55: every effect keeps it, and it reads no pending event. -/
theorem stepKeepsOneTimerPerSession : Obligations.StepKeepsOneTimerPerSession :=
  fun _ _ h hstep => step_keeps (fun _ _ h => h) (fun _ _ _ _ he => effect_timerMirrorsSession he) h hstep

end Sys2Proof.Machine
end

section
/-! SUPPORT. 10_state.md R29, items 1 to 5: what a change of the trace and what a change of the registers outside the
fatal state must keep, and O53. -/

namespace Sys2Proof.Machine

/-- The registers R29's items 1 to 5 speak of. -/
def invRegisters (s : State) :
    Config × Bool × Option (BitVec 2) × Option (BitVec 4) × Option Frame × Option Session × Bool :=
  (s.cfg, s.inited, s.blink, s.bright, s.frame, s.session, s.fatal)

/-- Where the registers stay, only the trace of the fatal state matters. -/
theorem RegisterInv.of_registers_eq {s t : State} (h : RegisterInv s) (hr : invRegisters t = invRegisters s)
    (ht : s.fatal = true → ∀ e ∈ t.trace, isBusWrite e = false) : RegisterInv t := by
  simp only [invRegisters, Prod.mk.injEq] at hr
  obtain ⟨hcfg, hinited, hblink, hbright, hframe, hsession, hfatal⟩ := hr
  obtain ⟨hactive, hbounds, hconfig, hshown, hdead⟩ := h
  constructor
  · rwa [State.active, hinited, hsession, hfatal]
  · rwa [hcfg, hsession]
  · rwa [hinited, hblink, hbright]
  · rwa [hinited, hframe]
  · intro hf
    rw [hfatal] at hf
    obtain ⟨hi, ha, hb, hl, hshow, _⟩ := hdead hf
    rw [State.active, hinited, hblink, hbright, hframe, hsession]
    exact ⟨hi, ha, hb, hl, hshow, ht hf⟩

/-- Events that are no transaction may be appended in every state. -/
theorem RegisterInv.append {s t : State} {new : List Output} (h : RegisterInv s)
    (hr : invRegisters t = invRegisters s) (ht : t.trace = s.trace ++ new)
    (hnew : ∀ e ∈ new, isBusWrite e = false) : RegisterInv t := by
  refine h.of_registers_eq hr fun hf e he => ?_
  obtain ⟨_, _, _, _, _, hdead⟩ := h.fatal_dead hf
  rw [ht, List.mem_append] at he
  exact he.elim (hdead e) (hnew e)

/-- Outside the fatal state the trace may be anything. -/
theorem RegisterInv.of_alive {s t : State} (h : RegisterInv s) (hr : invRegisters t = invRegisters s)
    (hf : s.fatal = false) : RegisterInv t :=
  h.of_registers_eq hr fun hd => by simp [hf] at hd

/-- What R29 says of a session's registers, with the range of its codes (R10). -/
def SessionBounded (c : Config) (x : Session) : Prop :=
  x.total = x.len + 4 ∧ x.step ≤ x.total + 1 ∧ x.len ≤ c.textMax ∧ ∀ e ∈ x.tb, fitsInt16 e.1 = true

/-- Once `INIT` has run, the content registers are free but for the bounds of a session. -/
theorem registerInv_of_inited {t : State} (hf : t.fatal = false) (hi : t.inited = true) (hb : t.blink ≠ none)
    (hl : t.bright ≠ none) (hx : ∀ x, t.session = some x → SessionBounded t.cfg x) : RegisterInv t where
  active_inited := fun _ => ⟨hi, hf⟩
  session_bounds := hx
  inited_config := fun _ => ⟨hb, hl⟩
  frame_inited := fun _ => hi
  fatal_dead := fun hd => by simp [hf] at hd

/-- R29 item 1. -/
theorem RegisterInv.inited_of_session {s : State} (h : RegisterInv s) {x : Session} (hx : s.session = some x) :
    s.inited = true :=
  (h.active_inited (by simp [State.active, hx])).1

/-- The codes of a new session are those of its text. -/
theorem textBuffer_fits {text : List Int} (dots : List Bool) (h : ∀ c ∈ text, fitsInt16 c = true) :
    ∀ e ∈ textBuffer text dots, fitsInt16 e.1 = true := by
  intro e he
  obtain ⟨⟨c, j⟩, hcj, rfl⟩ := List.mem_map.mp he
  exact h c (List.fst_mem_of_mem_zipIdx hcj)

theorem newSession_bounded {c : Config} {stop : Bool} {text : List Int} {dots : List Bool} {ivl : Word}
    (hwf : (Instr.scroll stop text dots ivl).wellFormed = true) (hl : text.length ≤ c.textMax) :
    SessionBounded c (newSession stop text dots ivl) := by
  simp only [Instr.wellFormed, Bool.and_eq_true] at hwf
  obtain ⟨_, hfit⟩ := hwf
  refine ⟨?_, Nat.zero_le _, ?_, textBuffer_fits dots (List.all_eq_true.mp hfit)⟩
  · rw [newSession_len]
    rfl
  · rwa [newSession_len]

/-- A tick moves `step` within its bound. -/
theorem SessionBounded.move {c : Config} {x : Session} (h : SessionBounded c x) {k : Nat} (hk : k ≤ x.total + 1) :
    SessionBounded c { x with step := k } := by
  obtain ⟨htotal, _, hlen, hfit⟩ := h
  exact ⟨htotal, hk, hlen, hfit⟩

/-- A reset clears every register and every transaction (R181). -/
theorem registerInv_resetRule (s : State) : RegisterInv (resetRule s) where
  active_inited := fun h => by cases h
  session_bounds := fun x h => by cases h
  inited_config := fun h => by cases h
  frame_inited := fun h => absurd rfl h
  fatal_dead := fun _ => by
    refine ⟨rfl, rfl, rfl, rfl, rfl, fun e he => ?_⟩
    rw [resetRule_trace, List.mem_append] at he
    rcases he with he | he <;> split at he <;> simp_all [isBusWrite]

/-- Every operation keeps R29's items 1 to 5. -/
theorem effect_registerInv {i : Instr} {s t : State} (hwf : i.wellFormed = true) (he : Effect i s t)
    (h : RegisterInv s) : RegisterInv t := by
  cases he with
  | refused => exact h.append rfl rfl (by simp [isBusWrite])
  | encodeText => exact h.append rfl rfl (by simp [isBusWrite])
  | same | lookupGlyph | serializeFrame => exact h.append (new := []) rfl (List.append_nil _).symm (by simp)
  | wOsc _ hf | wBlink _ _ hf | wBright _ _ hf | wFrame _ _ hf => exact h.of_alive rfl hf
  | init level rate _ hf => exact registerInv_of_inited hf rfl (by simp) (by simp) h.session_bounds
  | setblink rate _ hf hi => exact registerInv_of_inited hf hi (by simp) (h.inited_config hi).2 h.session_bounds
  | setbright level _ hf hi => exact registerInv_of_inited hf hi (h.inited_config hi).1 (by simp) h.session_bounds
  | wrframe _ _ hf hi | wrtext _ _ _ hf hi | clear _ hf hi | scrstop _ hf hi =>
    obtain ⟨hb, hl⟩ := h.inited_config hi
    exact registerInv_of_inited hf hi hb hl fun x hx => by cases hx
  | tickEnd x _ hf hx =>
    have hi := h.inited_of_session hx
    obtain ⟨hb, hl⟩ := h.inited_config hi
    exact registerInv_of_inited hf hi hb hl fun x hx => by cases hx
  | scroll stop text dots ivl _ hf hi hlen =>
    obtain ⟨hb, hl⟩ := h.inited_config hi
    refine registerInv_of_inited hf hi hb hl fun x hx => ?_
    cases hx
    exact newSession_bounded hwf hlen
  | tickSend x _ hf hx hs | tickWrap x _ hf hx hs =>
    have hi := h.inited_of_session hx
    obtain ⟨hb, hl⟩ := h.inited_config hi
    have hbound : SessionBounded s.cfg x := h.session_bounds x hx
    refine registerInv_of_inited hf hi hb hl fun y hy => ?_
    cases hy
    exact hbound.move (by omega)
  | reset => exact registerInv_resetRule s

/-- Settles O53: every effect of an operation that a packet can carry keeps it. -/
theorem stepKeepsRegisterInvariant : Obligations.StepKeepsRegisterInvariant :=
  fun _ _ h hstep => step_keeps (fun _ _ h => h.append (new := []) rfl (List.append_nil _).symm (by simp))
    (fun _ _ _ => effect_registerInv) h hstep

end Sys2Proof.Machine
end

section
/-! SUPPORT. `F` and the last frame transaction of the trace (10_state.md R11): what each shared operation does to
`lastFrame`, and O57. -/

namespace Sys2Proof.Machine

/-- A frame transaction is the last one. -/
theorem lastFrame_sentFrame (f : Frame) (s : State) : lastFrame (sentFrame f s).trace = some (serialize f) := by
  rw [lastFrame, sentFrame, busBytes_sent, List.filter_append]
  exact List.getLast?_concat ..

/-- A configuration byte is no frame. -/
theorem lastFrame_sentByte (b : Byte) (dev : Device → Device) (s : State) :
    lastFrame (sent [b] dev s).trace = lastFrame s.trace := by
  rw [lastFrame, busBytes_sent, List.filter_append]
  exact congrArg List.getLast? (List.append_nil _)

/-- What puts no transaction on the trace leaves the last frame. -/
theorem lastFrame_of_busBytes_eq {a b : List Output} (h : busBytes a = busBytes b) : lastFrame a = lastFrame b := by
  rw [lastFrame, h, lastFrame]

/-- The trace a reset starts holds no frame. -/
theorem lastFrame_resetRule (s : State) : lastFrame (resetRule s).trace = none := by
  rw [resetRule_trace]
  cases s.active <;> cases s.cfg.busPresent <;> rfl

/-- The operations of R26's events keep `F` at the last frame transaction. -/
theorem effect_lastFrame {i : Instr} {s t : State} (hunit : isUnitInstr i = false) (he : Effect i s t)
    (h : lastFrame s.trace = s.frame.map serialize) : lastFrame t.trace = t.frame.map serialize := by
  cases he with
  | refused _ _ cause info => exact (lastFrame_of_busBytes_eq (busBytes_refused cause info s)).trans h
  | init =>
    refine Eq.trans ?_ h
    exact (lastFrame_sentByte _ id _).trans ((lastFrame_sentByte _ id _).trans (lastFrame_sentByte _ id s))
  | setblink | setbright => exact (lastFrame_sentByte _ id s).trans h
  | wrframe | wrtext | clear | tickSend => exact lastFrame_sentFrame _ _
  | scroll =>
    refine Eq.trans (lastFrame_of_busBytes_eq ?_) h
    exact (busBytes_append _ _).trans ((List.append_nil _).trans (busBytes_sessionEnded s))
  | scrstop | tickEnd => exact (lastFrame_of_busBytes_eq (busBytes_sessionEnded s)).trans h
  | same | tickWrap => exact h
  | reset => exact lastFrame_resetRule s
  | wOsc | wBlink | wBright | wFrame | lookupGlyph | encodeText | serializeFrame => cases hunit

/-- The events that are left after the oldest are R26's too. -/
theorem SpecInput.tail {s t : State} {e : Event} {rest : List Event} (h : SpecInput s) (hin : s.input = e :: rest)
    (ht : t.input = rest) : SpecInput t := by
  intro e' he
  rw [ht] at he
  exact h e' (hin ▸ List.mem_cons_of_mem e he)

/-- A step on an event of R26: it waits, or has the effect of an operation that is no unit's, and leaves such events. -/
theorem step_effect_of_specInput {s t : State} (hs : SpecInput s) (h : step s = .next t) :
    t = s ∨ ∃ rest i, isUnitInstr i = false ∧ Effect i { s with input := rest } t ∧ SpecInput t := by
  rcases step_effect h with ⟨_, rfl⟩ | ⟨e, rest, i, hin, hi, he⟩
  · exact .inl rfl
  · exact .inr ⟨rest, i, hi.spec (hs e (by simp [hin])), he, hs.tail hin (effect_input he)⟩

/-- Settles O57: of R26's events only a frame's sender puts a frame on the trace, and it writes `F` with it. -/
theorem stepKeepsFrameOnTrace : Obligations.StepKeepsFrameOnTrace := by
  rintro s t ⟨hs, h⟩ hstep
  rcases step_effect_of_specInput hs hstep with rfl | ⟨rest, i, hunit, he, ht⟩
  · exact ⟨hs, h⟩
  · exact ⟨ht, effect_lastFrame (s := { s with input := rest }) hunit he h⟩

end Sys2Proof.Machine
end

section
/-! SUPPORT. What the device was last sent (20_memory.md R30, R33; log entry 6): the bookkeeping registers against the
device's, and the form of its memory; O56 and O58. -/

namespace Sys2Proof.Machine

/-- The bookkeeping registers say what the device was last sent: `DeviceMirrorsBookkeeping` without its premise on the
input. -/
def Mirrors (cfg : Config) (d : Device) (inited : Bool) (blink : Option (BitVec 2)) (bright : Option (BitVec 4))
    (frame : Option Frame) : Prop :=
  (inited = true → d.osc = some cfg.kOscOn) ∧
  (∀ rate, blink = some rate → d.blink = some (blinkByte cfg rate)) ∧
  (∀ level, bright = some level → d.bright = some (brightByte cfg level)) ∧
  ∀ f, frame = some f → ∀ k < 8, memRead d.ram k = (frameBytes f)[k]?

theorem deviceMirrorsBookkeeping_iff (s : State) : DeviceMirrorsBookkeeping s ↔
    SpecInput s ∧ Mirrors s.cfg s.device s.inited s.blink s.bright s.frame :=
  ⟨fun ⟨hin, hosc, hblink, hbright, hram⟩ => ⟨hin, hosc, hblink, hbright, hram⟩,
    fun ⟨hin, hosc, hblink, hbright, hram⟩ => ⟨hin, hosc, hblink, hbright, hram⟩⟩

section
variable {cfg : Config} {d : Device} {inited : Bool} {blink : Option (BitVec 2)} {bright : Option (BitVec 4)}
  {frame : Option Frame}

theorem Mirrors.sendOsc (h : Mirrors cfg d inited blink bright frame) :
    Mirrors cfg { d with osc := some cfg.kOscOn } true blink bright frame := by
  obtain ⟨_, hblink, hbright, hram⟩ := h
  exact ⟨fun _ => rfl, hblink, hbright, hram⟩

theorem Mirrors.sendBlink (h : Mirrors cfg d inited blink bright frame) (rate : BitVec 2) :
    Mirrors cfg { d with blink := some (blinkByte cfg rate) } inited (some rate) bright frame := by
  obtain ⟨hosc, _, hbright, hram⟩ := h
  exact ⟨hosc, fun r hr => by cases hr; rfl, hbright, hram⟩

theorem Mirrors.sendBright (h : Mirrors cfg d inited blink bright frame) (level : BitVec 4) :
    Mirrors cfg { d with bright := some (brightByte cfg level) } inited blink (some level) frame := by
  obtain ⟨hosc, hblink, _, hram⟩ := h
  exact ⟨hosc, hblink, fun l hl => by cases hl; rfl, hram⟩

/-- The device memory after a frame reads as the frame's data bytes. -/
theorem memRead_sentFrame (m : Memory) (f : Frame) {k : Nat} (hk : k < 8) :
    memRead (memStore m startAddr.toNat (frameBytes f)) k = (frameBytes f)[k]? := by
  have h := memRead_memStore_inside (frameBytes f) m startAddr.toNat k hk
  rwa [show startAddr.toNat + k = k from Nat.zero_add k] at h

theorem Mirrors.sendFrame (h : Mirrors cfg d inited blink bright frame) (f : Frame) :
    Mirrors cfg { d with ram := memStore d.ram startAddr.toNat (frameBytes f) } inited blink bright (some f) := by
  obtain ⟨hosc, hblink, hbright, _⟩ := h
  exact ⟨hosc, hblink, hbright, fun g hg k hk => by cases hg; exact memRead_sentFrame d.ram f hk⟩

end

/-- After a reset no register claims anything. -/
theorem mirrors_reset (cfg : Config) (d : Device) : Mirrors cfg d false none none none :=
  ⟨by simp, by simp, by simp, by simp⟩

/-- The operations of R26's events keep the bookkeeping true. -/
theorem effect_mirrors {i : Instr} {s t : State} (hunit : isUnitInstr i = false) (he : Effect i s t)
    (h : Mirrors s.cfg s.device s.inited s.blink s.bright s.frame) :
    Mirrors t.cfg t.device t.inited t.blink t.bright t.frame := by
  cases he with
  | refused | same | scroll | scrstop | tickWrap | tickEnd => exact h
  | init level rate => exact (h.sendOsc.sendBlink (normRate rate)).sendBright (clampLevel level)
  | setblink rate => exact h.sendBlink _
  | setbright level => exact h.sendBright _
  | wrframe | wrtext | clear | tickSend => exact h.sendFrame _
  | reset => exact mirrors_reset s.cfg s.device
  | wOsc | wBlink | wBright | wFrame | lookupGlyph | encodeText | serializeFrame => cases hunit

/-- Settles O56: on R26's events a register is written together with the transaction that tells the device. -/
theorem stepKeepsBookkeepingTrue : Obligations.StepKeepsBookkeepingTrue := by
  intro s t h hstep
  obtain ⟨hs, hm⟩ := (deviceMirrorsBookkeeping_iff s).mp h
  rcases step_effect_of_specInput hs hstep with rfl | ⟨rest, i, hunit, he, ht⟩
  · exact h
  · exact (deviceMirrorsBookkeeping_iff t).mpr ⟨ht, effect_mirrors (s := { s with input := rest }) hunit he hm⟩

/-! ### The device memory -/

/-- A frame's bytes go to 0x00..0x07, in the canonical form. -/
theorem DeviceMemoryCanonical.sentFrame {s : State} (h : DeviceMemoryCanonical s) (f : Frame) :
    DeviceMemoryCanonical (sentFrame f s) := by
  obtain ⟨hwf, hbound⟩ := h
  exact ⟨memStore_wf _ _ _ hwf, memStore_bound _ _ _ 8 (Nat.le_refl 8) hbound⟩

theorem effect_deviceMemoryCanonical {i : Instr} {s t : State} (he : Effect i s t) (h : DeviceMemoryCanonical s) :
    DeviceMemoryCanonical t := by
  cases he with
  | wrframe | wrtext | clear | tickSend | wFrame => exact h.sentFrame _
  | _ => exact h

/-- Settles O58: only a frame writes the memory, at its eight addresses. -/
theorem stepKeepsDeviceMemoryCanonical : Obligations.StepKeepsDeviceMemoryCanonical :=
  fun _ _ h hstep => step_keeps (fun _ _ h => h) (fun _ _ _ _ he => effect_deviceMemoryCanonical he) h hstep

/-- A frame is sent only by an operation that has one to send. -/
theorem effect_ram_of_no_frame {i : Instr} {s t : State} (he : Effect i s t) (hn : frameSent i s = none) :
    t.device.ram = s.device.ram := by
  cases he with
  | wrframe _ _ hf hi | wrtext _ _ _ hf hi | clear _ hf hi => simp [frameSent, hf, hi] at hn
  | wFrame _ _ hf => simp [frameSent, hf] at hn
  | tickSend x _ hf hx hs => simp [frameSent, hf, hx, hs] at hn
  | _ => rfl

end Sys2Proof.Machine
end

section
/-! SUPPORT. The serializer and the lookup port between two events (10_state.md R23, 40_glyph_lookup.md R86); O60. -/

namespace Sys2Proof.Machine

/-- Every transaction ends in `S_IDLE`. -/
theorem effect_ser_idle {i : Instr} {s t : State} (he : Effect i s t) (h : s.ser = .idle) : t.ser = .idle := by
  cases he with
  | init | setblink | setbright | wrframe | wrtext | clear | tickSend | wOsc | wBlink | wBright | wFrame | reset => rfl
  | _ => exact h

/-- The port's outputs are set with its code, from the same table. -/
theorem effect_lookupPinsHold {i : Instr} {s t : State} (he : Effect i s t) (h : LookupPinsHold s) :
    LookupPinsHold t := by
  cases he with
  | lookupGlyph => exact ⟨rfl, rfl⟩
  | _ => exact h

/-- Settles O60: every transaction runs to its end, and the port's pins are written together. -/
theorem stepKeepsSerializerIdleAndPortsTrue : Obligations.StepKeepsSerializerIdleAndPortsTrue :=
  fun _ _ hser hlk hstep =>
    ⟨step_keeps (P := fun s => s.ser = .idle) (fun _ _ h => h) (fun _ _ _ _ he => effect_ser_idle he) hser hstep,
      step_keeps (fun _ _ h => h) (fun _ _ _ _ he => effect_lookupPinsHold he) hlk hstep⟩

end Sys2Proof.Machine
end

section
/-! SUPPORT. The machine right after reset (70_reset_and_hazards.md R181): every invariant holds of it, with any
parameters; O52. -/

namespace Sys2Proof.Machine

/-- The default parameters keep R6's constraints. -/
theorem default_wf : Config.default.wf = true := by
  have hspace : Config.openRom[32] = 0x0000#16 := by simp [Config.openRom]
  have hfallback : Config.openRom[127] = 0x3FFF#16 := by simp [Config.openRom]
  simp [Config.wf, Config.default, hspace, hfallback]

/-- A reset finds nothing to do right after reset, so what every reset leaves holds there. -/
theorem resetRule_powerOn (c : Config) : resetRule (State.powerOn c) = State.powerOn c := rfl

theorem specInput_powerOn (c : Config) : SpecInput (State.powerOn c) := by
  intro e he
  cases he

theorem lookupPinsHold_powerOn (c : Config) : LookupPinsHold (State.powerOn c) :=
  ⟨congrArg Prod.fst (lookup_fin c 0).symm, congrArg Prod.snd (lookup_fin c 0).symm⟩

/-- Settles O52: of the registers' invariants, what every reset leaves; the model's own fields are empty. -/
theorem invariantsHoldAtReset : Obligations.InvariantsHoldAtReset := by
  refine ⟨default_wf, rfl, fun c => ?_⟩
  have hinput : SpecInput (State.powerOn c) := specInput_powerOn c
  rw [← resetRule_powerOn c] at hinput ⊢
  exact ⟨registerInv_resetRule _, statusMirrorsTrace_resetRule _, timerMirrorsSession_resetRule _,
    (deviceMirrorsBookkeeping_iff _).mpr ⟨hinput, mirrors_reset _ _⟩, ⟨hinput, lastFrame_resetRule _⟩,
    ⟨rfl, fun e he => by cases he⟩, traceHasWireShape_resetRule _, lookupPinsHold_powerOn c, rfl⟩

end Sys2Proof.Machine
end

section
/-! SUPPORT. The bus's answers are only reported (42_display_driver.md R115, 90_conflicts.md C3): every shared operation
takes two states that agree but for the answers to two such states, an operation is made of these, and O51. -/

namespace Sys2Proof.Machine

/-- An update that uses no answer: from two states that agree but for the answers and their reports it leads to two
such states. -/
def AnswerBlind (f : State → State) : Prop :=
  ∀ s s', hideAnswers s = hideAnswers s' → hideAnswers (f s) = hideAnswers (f s')

/-- It is enough that what is left, reports taken out, is a function of what was there, reports taken out. -/
theorem AnswerBlind.of_hide {f : State → State} (g : State → State)
    (h : ∀ s, hideAnswers (f s) = g (hideAnswers s)) : AnswerBlind f :=
  fun s s' hs => by rw [h, h, hs]

theorem AnswerBlind.comp {f g : State → State} (hg : AnswerBlind g) (hf : AnswerBlind f) :
    AnswerBlind fun s => g (f s) :=
  fun s s' hs => hg _ _ (hf s s' hs)

theorem answerBlind_id : AnswerBlind fun s => s := fun _ _ hs => hs

/-- Then a register is written that is no report. -/
theorem AnswerBlind.thenUpdate {f : State → State} (h : AnswerBlind f) (g : State → State)
    (hg : ∀ s, hideAnswers (g s) = g (hideAnswers s)) : AnswerBlind fun s => g (f s) :=
  (AnswerBlind.of_hide g hg).comp h

/-- A rule may read what is no report: the registers, the session, the parameters. -/
theorem AnswerBlind.of_read {α : Type} (read : State → α) {rule : α → State → State}
    (hread : ∀ s, read (hideAnswers s) = read s) (h : ∀ a, AnswerBlind (rule a)) :
    AnswerBlind fun s => rule (read s) s := by
  intro s s' hs
  have heq : read s = read s' := by rw [← hread s, hs, hread s']
  change hideAnswers (rule (read s) s) = hideAnswers (rule (read s') s')
  rw [← heq]
  exact h _ s s' hs

/-! ### The shared operations -/

theorem answerBlind_emit (e : Output) (he : outputKind e ≠ some 2) : AnswerBlind (emit e) :=
  .of_hide (emit e) fun s => by simp [hideAnswers, emit, he]

/-- A bit other than `status[2]` is set before or after that one is taken out. -/
theorem hide_status_or {m : BitVec 8} (hm : m &&& 0xFB#8 = m) (status : BitVec 8) :
    (status ||| m) &&& 0xFB#8 = (status &&& 0xFB#8) ||| m := by
  rw [BitVec.and_comm, BitVec.and_or_distrib_left, BitVec.and_comm, BitVec.and_comm _ m, hm]

theorem answerBlind_refused {cause : Cause} (hc : cause ≠ .busErr) (info : Word) :
    AnswerBlind (refused cause info) := by
  have hkind : outputKind (.err cause info) ≠ some 2 ∧
      BitVec.ofNat 8 (2 ^ causeCode cause) &&& 0xFB#8 = BitVec.ofNat 8 (2 ^ causeCode cause) := by
    cases cause with
    | busErr => exact absurd rfl hc
    | _ => exact ⟨by simp [outputKind, causeCode], rfl⟩
  obtain ⟨hk, hbit⟩ := hkind
  exact .of_hide (refused cause info) fun s => by
    simp only [hideAnswers, refused, hide_status_or hbit, List.filter_append, List.filter_cons, List.filter_nil,
      decide_eq_true hk, if_true]

theorem answerBlind_sessionEnded : AnswerBlind sessionEnded :=
  .of_hide sessionEnded fun s => by
    cases hs : s.session <;> simp [hideAnswers, sessionEnded, State.active, hs, outputKind]

theorem answerBlind_logged (text : List Int) : AnswerBlind (logged text) :=
  .of_hide (logged text) fun s => by
    by_cases hu : unmappedSlots text = [] <;>
      simp [hideAnswers, logged, hu, outputKind, hide_status_or]

/-- What a transaction leaves, the report of its answer taken out. -/
def sentQuietly (bytes : List Byte) (dev : Device → Device) (s : State) : State :=
  { s with
    ser := .idle
    device := dev s.device
    busSeq := s.busSeq + 1
    trace := s.trace ++ [.busWrite s.cfg.devAddr bytes] }

theorem hide_answerStatus (a : BusAnswer) (status : BitVec 8) :
    answerStatus a status &&& 0xFB#8 = status &&& 0xFB#8 := by
  cases a with
  | ok => rfl
  | fail e =>
    rw [answerStatus, BitVec.and_comm, BitVec.and_or_distrib_left, BitVec.and_comm]
    exact BitVec.or_zero

theorem hide_answerRecords (a : BusAnswer) :
    (answerRecords a).filter (fun e => decide (outputKind e ≠ some 2)) = [] := by
  cases a <;> rfl

/-- R115: whatever the answer, the transaction leaves the same but for its report. -/
theorem answerBlind_sent (bytes : List Byte) (dev : Device → Device) : AnswerBlind (sent bytes dev) :=
  .of_hide (sentQuietly bytes dev) fun s => by
    have hrecords := hide_answerRecords (nextAnswer s)
    simp only [hideAnswers, sent, sentQuietly, hide_answerStatus, List.filter_append, List.filter_cons, hrecords]
    rfl

theorem answerBlind_resetRule : AnswerBlind resetRule :=
  .of_hide resetRule fun s => by
    cases hs : s.session <;> cases hb : s.cfg.busPresent <;>
      simp [hideAnswers, resetRule, State.active, hs, hb, outputKind, causeCode]

/-! ### The transactions and the rules -/

theorem answerBlind_busWrite (w : Wire) : AnswerBlind (busWrite w) := by
  cases w with
  | osc =>
    simp only [funext busWrite_osc]
    exact .of_read State.cfg (rule := fun c => sent [c.kOscOn] fun d => { d with osc := some c.kOscOn })
      (fun _ => rfl) fun _ => answerBlind_sent _ _
  | blink rate =>
    simp only [funext (busWrite_blink rate)]
    exact .of_read State.cfg
      (rule := fun c => sent [blinkByte c rate] fun d => { d with blink := some (blinkByte c rate) })
      (fun _ => rfl) fun _ => answerBlind_sent _ _
  | bright level =>
    simp only [funext (busWrite_bright level)]
    exact .of_read State.cfg
      (rule := fun c => sent [brightByte c level] fun d => { d with bright := some (brightByte c level) })
      (fun _ => rfl) fun _ => answerBlind_sent _ _
  | frame f =>
    simp only [funext (busWrite_frame f)]
    exact answerBlind_sent _ _

theorem answerBlind_sendFrame (f : Frame) : AnswerBlind (sendFrame f) :=
  (answerBlind_busWrite (.frame f)).thenUpdate (fun s => { s with frame := some f }) fun _ => rfl

theorem answerBlind_sendOsc : AnswerBlind sendOsc :=
  (answerBlind_busWrite .osc).thenUpdate (fun s => { s with inited := true }) fun _ => rfl

theorem answerBlind_sendBlink (rate : BitVec 2) : AnswerBlind (sendBlink rate) :=
  (answerBlind_busWrite (.blink rate)).thenUpdate (fun s => { s with blink := some rate }) fun _ => rfl

theorem answerBlind_sendBright (level : BitVec 4) : AnswerBlind (sendBright level) :=
  (answerBlind_busWrite (.bright level)).thenUpdate (fun s => { s with bright := some level }) fun _ => rfl

theorem answerBlind_cancelSession : AnswerBlind cancelSession := by
  rw [funext cancelSession_eq]
  exact answerBlind_sessionEnded

theorem answerBlind_encodeLogs (text : List Int) : AnswerBlind (encodeLogs text) := by
  rw [funext (encodeLogs_eq text)]
  exact answerBlind_logged text

theorem answerBlind_sendText (text : List Int) (dots : List Bool) : AnswerBlind (sendText text dots) :=
  .of_read State.cfg (rule := fun c s => sendFrame (encodeFrame c text dots) (encodeLogs text s)) (fun _ => rfl)
    fun _ => (answerBlind_sendFrame _).comp (answerBlind_encodeLogs text)

theorem answerBlind_encodeOut (text : List Int) (dots : List Bool) :
    AnswerBlind fun s => { encodeLogs text s with encOut := encodeFrame s.cfg text dots } :=
  .of_read State.cfg (rule := fun c s => { encodeLogs text s with encOut := encodeFrame c text dots }) (fun _ => rfl)
    fun c => (answerBlind_encodeLogs text).thenUpdate (fun s => { s with encOut := encodeFrame c text dots })
      fun _ => rfl

/-- A test of what is no report. -/
theorem AnswerBlind.ite {f g : State → State} (p : State → Bool) (hp : ∀ s, p (hideAnswers s) = p s)
    (hf : AnswerBlind f) (hg : AnswerBlind g) : AnswerBlind fun s => if p s then f s else g s :=
  .of_read p (rule := fun b s => if b then f s else g s) hp fun b => by
    cases b
    · exact hg
    · exact hf

theorem answerBlind_raise {cause : Cause} (hc : cause ≠ .busErr) (info : Word) : AnswerBlind (raise cause info) :=
  answerBlind_refused hc info

theorem AnswerBlind.whenAlive {rule : State → State} (h : AnswerBlind rule) (op : Byte) :
    AnswerBlind fun s => whenAlive op s rule :=
  .ite State.fatal (fun _ => rfl) (answerBlind_raise (by decide) _) h

theorem AnswerBlind.whenAdmitted {rule : State → State} (h : AnswerBlind rule) (op : Byte) :
    AnswerBlind fun s => whenAdmitted op s rule :=
  .ite State.fatal (fun _ => rfl) (answerBlind_raise (by decide) _)
    (.ite State.inited (fun _ => rfl) h (answerBlind_raise (by decide) _))

theorem answerBlind_transact (w : Wire) : AnswerBlind (transact w) :=
  .ite State.fatal (fun _ => rfl) answerBlind_id (answerBlind_busWrite w)

theorem answerBlind_setbrightRule (level : Int) : AnswerBlind (setbrightRule level) :=
  .of_read (fun s => (s.cfg.brightSkip, s.bright))
    (rule := fun r s => if r.1 ∧ r.2 = some (clampLevel level) then s else sendBright (clampLevel level) s)
    (fun _ => rfl) fun r => by
      by_cases h : r.1 ∧ r.2 = some (clampLevel level)
      · simp only [h, and_self, if_true]
        exact answerBlind_id
      · simp only [h, if_false]
        exact answerBlind_sendBright _

theorem answerBlind_scrollRule (stop : Bool) (text : List Int) (dots : List Bool) (ivl : Word) :
    AnswerBlind (scrollRule stop text dots ivl) := by
  have hopen : AnswerBlind fun s => { cancelSession s with session := some (newSession stop text dots ivl) } :=
    answerBlind_cancelSession.thenUpdate (fun s => { s with session := some (newSession stop text dots ivl) })
      fun _ => rfl
  have harm : AnswerBlind (emit (.timerArm ivl)) := answerBlind_emit _ (by simp [outputKind])
  refine .of_read (fun s => s.cfg.textMax) (rule := fun m s =>
    if m < text.length then raise .tooLong (BitVec.ofNat 16 text.length) s
    else emit (.timerArm ivl) { cancelSession s with session := some (newSession stop text dots ivl) })
    (fun _ => rfl) fun m => ?_
  by_cases h : m < text.length
  · simp only [h, if_true]
    exact answerBlind_raise (by decide) _
  · simp only [h, if_false]
    exact harm.comp hopen

/-- Then the session's registers are written. -/
theorem AnswerBlind.thenSession {f : State → State} (h : AnswerBlind f) (x : Option Session) :
    AnswerBlind fun s => { f s with session := x } :=
  h.thenUpdate (fun s => { s with session := x }) fun _ => rfl

theorem answerBlind_tickSession (x : Session) : AnswerBlind (tickSession x) := by
  have hsend : AnswerBlind (tickSend x) := (answerBlind_sendText _ _).thenSession _
  unfold tickSession
  split_ifs
  · exact (answerBlind_emit .timerCancel (by simp [outputKind])).comp (answerBlind_id.thenSession none)
  · exact answerBlind_id.thenSession _
  · exact hsend

theorem answerBlind_tickRule : AnswerBlind tickRule :=
  .ite State.fatal (fun _ => rfl) answerBlind_id <|
    .of_read State.session (rule := fun x s => match x with | none => s | some x => tickSession x s) (fun _ => rfl)
      fun x => by
        cases x with
        | none => exact answerBlind_id
        | some x => exact answerBlind_tickSession x

/-- Where an operation answers what an update leaves, two agreeing states give agreeing answers. -/
theorem AnswerBlind.hideOutcome_eq {f : State → State} (h : AnswerBlind f) {s s' : State}
    (hs : hideAnswers s = hideAnswers s') : hideOutcome (.next (f s)) = hideOutcome (.next (f s')) :=
  congrArg Host.Outcome.next (h s s' hs)

theorem exec_answerBlind (i : Instr) {s s' : State} (hs : hideAnswers s = hideAnswers s') :
    hideOutcome (exec i s) = hideOutcome (exec i s') := by
  cases i with
  | init level rate =>
    have hrule : AnswerBlind (initRule level rate) :=
      (answerBlind_sendBright _).comp ((answerBlind_sendBlink _).comp answerBlind_sendOsc)
    exact (hrule.whenAlive _).hideOutcome_eq hs
  | setblink rate => exact ((answerBlind_sendBlink _).whenAdmitted _).hideOutcome_eq hs
  | setbright level => exact ((answerBlind_setbrightRule level).whenAdmitted _).hideOutcome_eq hs
  | wrframe f => exact (((answerBlind_sendFrame f).comp answerBlind_cancelSession).whenAdmitted _).hideOutcome_eq hs
  | wrtext text dots =>
    exact (((answerBlind_sendText text dots).comp answerBlind_cancelSession).whenAdmitted _).hideOutcome_eq hs
  | clear => exact (((answerBlind_sendFrame _).comp answerBlind_cancelSession).whenAdmitted _).hideOutcome_eq hs
  | scroll stop text dots ivl =>
    exact ((answerBlind_scrollRule stop text dots ivl).whenAdmitted _).hideOutcome_eq hs
  | scrstop => exact (answerBlind_cancelSession.whenAdmitted _).hideOutcome_eq hs
  | reservedOpcode op => exact ((answerBlind_raise (by decide) _).whenAlive op).hideOutcome_eq hs
  | emptyPacket => exact ((answerBlind_raise (by decide) _).whenAlive _).hideOutcome_eq hs
  | tick => exact answerBlind_tickRule.hideOutcome_eq hs
  | reset => exact answerBlind_resetRule.hideOutcome_eq hs
  | wOsc => exact (answerBlind_transact .osc).hideOutcome_eq hs
  | wBlink rate => exact (answerBlind_transact (.blink rate)).hideOutcome_eq hs
  | wBright level => exact (answerBlind_transact (.bright level)).hideOutcome_eq hs
  | wFrame f => exact (answerBlind_transact (.frame f)).hideOutcome_eq hs
  | lookupGlyph c =>
    exact (answerBlind_id.thenUpdate (fun s =>
      { s with lk := { code := c, mask := (lookup s.cfg c).1, unmapped := (lookup s.cfg c).2 } })
      fun _ => rfl).hideOutcome_eq hs
  | encodeText text dots => exact (answerBlind_encodeOut text dots).hideOutcome_eq hs
  | serializeFrame f =>
    exact (answerBlind_id.thenUpdate (fun s => { s with serOut := serialize f }) fun _ => rfl).hideOutcome_eq hs

/-- Settles O51: the operation by its meaning; a step takes the same event from both, and a packet it rejects is
reported to both. -/
theorem busAnswersAreOnlyReported : Obligations.BusAnswersAreOnlyReported := by
  refine ⟨fun i s s' => exec_answerBlind i, fun s s' hs => ?_⟩
  have hin : (hideAnswers s).input = (hideAnswers s').input := congrArg State.input hs
  have hpop : ∀ rest, AnswerBlind fun s : State => { s with input := rest } :=
    fun rest => answerBlind_id.thenUpdate (fun s => { s with input := rest }) fun _ => rfl
  unfold step
  rw [show s'.input = s.input from hin.symm]
  cases s.input with
  | nil => exact answerBlind_id.hideOutcome_eq hs
  | cons e rest =>
    dsimp only
    cases fetch e with
    | instr i => exact exec_answerBlind i (hpop rest s s' hs)
    | malformed op =>
      exact ((answerBlind_raise (by decide) _).whenAlive op).hideOutcome_eq (hpop rest s s' hs)

end Sys2Proof.Machine
end

section
/-! SUPPORT. What the internal functions leave (40_glyph_lookup.md R80, 41_frame_encoder.md R90 to R95), the
serializer's run (42_display_driver.md R113) and the reset as a whole; O9, O12, O13, O16 and O36. -/

namespace Sys2Proof.Machine

/-- Settles O9: the port carries `lookup` of the code, whose two cases are R81 and R82. -/
theorem lookupResult : Obligations.LookupResult := by
  refine fun c s => ⟨(lookup s.cfg c).1, (lookup s.cfg c).2, rfl, fun k hk => ?_, fun hc => ?_⟩
  · rw [hk, lookup_fin]
    exact ⟨rfl, rfl⟩
  · rw [lookup_unmapped s.cfg hc]
    exact ⟨rfl, rfl⟩

theorem exec_encodeText (text : List Int) (dots : List Bool) (s : State) :
    exec (.encodeText text dots) s = .next { logged text s with encOut := encodeFrame s.cfg text dots } := by
  rw [exec, execEncodeText, encodeLogs_eq]

theorem exec_encodeText_cutOrFill (text : List Int) (dots : List Bool) (s : State) :
    exec (.encodeText (cutOrFill spaceCode text) (cutOrFill false dots)) s = exec (.encodeText text dots) s := by
  simp only [exec, execEncodeText, encodeFrame_cutOrFill, encodeLogs_cutOrFill]

/-- R94: nothing is logged exactly where all four slots are in range. -/
theorem unmappedSlots_eq_nil_iff (text : List Int) :
    unmappedSlots text = [] ↔ ∀ k < 4, 0 ≤ text.getD k 32 ∧ text.getD k 32 ≤ 127 := by
  have hslots : unmappedSlots text = ((List.range 4).map (slotChar text)).filter isUnmapped := rfl
  rw [hslots, List.filter_eq_nil_iff, List.forall_mem_map]
  simp only [List.mem_range, isUnmapped_iff, slotChar, spaceCode]
  exact forall₂_congr fun k _ => by omega

/-- Settles O12: the log events of `encode` as one update, with R85's test written out. -/
theorem encodeResult : Obligations.EncodeResult := by
  refine fun text dots s => ⟨?_, (exec_encodeText_cutOrFill text dots s).symm⟩
  have hslots : ([text.getD 0 32, text.getD 1 32, text.getD 2 32, text.getD 3 32].filter
      fun c => decide (c < 0 ∨ 127 < c)) = unmappedSlots text :=
    List.filter_congr fun c _ => by rw [Bool.eq_iff_iff, decide_eq_true_iff, isUnmapped_iff]
  rw [exec_encodeText, hslots]
  simp only [logged, unmappedSlots_eq_nil_iff]

/-- R95's `v & 0xFF`. -/
theorem loByte_eq_and (v : Word) : loByte v = (v &&& 0x00FF#16).setWidth 8 := by
  have hmask : (0x00FF#16).setWidth 8 = BitVec.allOnes 8 := rfl
  rw [BitVec.setWidth_and, hmask, BitVec.and_allOnes, BitVec.setWidth_eq_extractLsb' (by decide), loByte]

/-- R95's `v >> 8`. -/
theorem loByte_ushiftRight (v : Word) : loByte (v >>> 8) = hiByte v := by
  refine BitVec.eq_of_getLsbD_eq fun k hk => ?_
  simp [hiByte, loByte, hk]

/-- Settles O13: each slot's two bytes as R95 writes them. -/
theorem serializeResult : Obligations.SerializeResult := by
  intro f s
  simp only [exec, execSerializeFrame, serialize, List.flatMap_cons, List.flatMap_nil, ← loByte_eq_and,
    loByte_ushiftRight]
  rfl

/-- Settles O16: R113's table run from `S_ADDR` and from `S_CMD`. -/
theorem serializerDrivesTransaction : Obligations.SerializerDrivesTransaction :=
  ⟨fun _ => ⟨rfl, rfl, rfl, rfl⟩, fun _ => rfl⟩

/-- Settles O36: R181's update is the reset's meaning. -/
theorem resetResult : Obligations.ResetResult := fun _ => rfl

end Sys2Proof.Machine
end

section
/-! SUPPORT. What each admitted operation leaves (42_display_driver.md, 43_scroll_engine.md), as one update of the
state: O17 to O23, O25, O28 to O30, and from them O24, O33, O34 and O44. -/

namespace Sys2Proof.Machine

/-! ### Configuration commands -/

/-- Settles O17: R101 admits `INIT` outside the fatal state, and its three transactions are one update. -/
theorem initResult : Obligations.InitResult := by
  intro level rate s hf
  rw [exec_init_of_alive level rate hf, initRule_eq]

/-- Settles O18: R101's tests pass, and the blink byte is R69's. -/
theorem setblinkResult : Obligations.SetblinkResult := by
  intro rate s hf hi
  rw [exec, execSetblink, whenAdmitted_of_admitted _ _ hf hi, sendBlink_eq]
  rfl

theorem setbrightRule_skip {level : Int} {s : State} (hskip : s.cfg.brightSkip = true)
    (hl : s.bright = some (clampLevel level)) : setbrightRule level s = s :=
  if_pos ⟨hskip, hl⟩

theorem setbrightRule_send {level : Int} {s : State}
    (h : s.cfg.brightSkip = false ∨ s.bright ≠ some (clampLevel level)) :
    setbrightRule level s = sendBright (clampLevel level) s :=
  if_neg fun ⟨hskip, hl⟩ => h.elim (fun h => by simp [h] at hskip) fun h => h hl

theorem exec_setbright_of_admitted (level : Int) {s : State} (hf : s.fatal = false) (hi : s.inited = true) :
    exec (.setbright level) s = .next (setbrightRule level s) := by
  rw [exec, execSetbright, whenAdmitted_of_admitted _ _ hf hi]

/-- Settles O19: R101's tests pass; R105's rule skips or sends. -/
theorem setbrightResult : Obligations.SetbrightResult := by
  refine fun level s hf hi => ⟨fun hskip hl => ?_, fun h => ?_⟩
  · rw [exec_setbright_of_admitted level hf hi, setbrightRule_skip hskip hl]
  · rw [exec_setbright_of_admitted level hf hi, setbrightRule_send h, sendBright_eq]
    rfl

/-- What O24 compares, of a state. -/
def seenOutside (s : State) :
    Device × Option (BitVec 4) × Option (BitVec 2) × Bool × Option Frame × Option Session × Bool × BitVec 8 :=
  (s.device, s.bright, s.blink, s.inited, s.frame, s.session, s.fatal, s.status &&& 0xFB#8)

/-- The byte of the tracked level is on the device already: sending it again changes nothing but `status[2]`. -/
theorem seenOutside_sendBright {level : BitVec 4} {s : State} (hl : s.bright = some level)
    (hd : s.device.bright = some (brightByte s.cfg level)) : seenOutside (sendBright level s) = seenOutside s := by
  have hdev : { s.device with bright := some (brightByte s.cfg level) } = s.device := by rw [← hd]
  rw [sendBright_eq]
  simp only [seenOutside, sent_device, sent_status, hide_answerStatus, hdev, hl]
  rfl

/-- The state with `BRIGHT_SKIP` off, where every admitted `SETBRIGHT` is written. -/
def withoutSkip (s : State) : State := { s with cfg := { s.cfg with brightSkip := false } }

theorem seenOutside_setbrightRule (level : Int) {s : State} (h : DeviceMirrorsBookkeeping s) :
    seenOutside (setbrightRule level s) = seenOutside (setbrightRule level (withoutSkip s)) := by
  have hcfg : seenOutside (sendBright (clampLevel level) (withoutSkip s))
      = seenOutside (sendBright (clampLevel level) s) := by
    rw [sendBright_eq, sendBright_eq]
    rfl
  rw [setbrightRule_send (s := withoutSkip s) (.inl rfl), hcfg]
  by_cases hs : s.cfg.brightSkip = true ∧ s.bright = some (clampLevel level)
  · obtain ⟨hskip, hl⟩ := hs
    rw [setbrightRule_skip hskip hl, seenOutside_sendBright hl (h.bright _ hl)]
  · rw [setbrightRule, if_neg hs]

/-- R101's tests do not read `BRIGHT_SKIP`. -/
theorem seenOutside_whenAdmitted_setbright (level : Int) {s : State} (h : DeviceMirrorsBookkeeping s) :
    seenOutside (whenAdmitted 0x03#8 s (setbrightRule level))
      = seenOutside (whenAdmitted 0x03#8 (withoutSkip s) (setbrightRule level)) := by
  cases hf : s.fatal with
  | true =>
    rw [whenAdmitted_of_fatal _ _ hf, whenAdmitted_of_fatal (s := withoutSkip s) _ _ hf]
    rfl
  | false =>
    cases hi : s.inited with
    | true =>
      rw [whenAdmitted_of_admitted _ _ hf hi, whenAdmitted_of_admitted (s := withoutSkip s) _ _ hf hi]
      exact seenOutside_setbrightRule level h
    | false =>
      rw [whenAdmitted_of_not_inited _ _ hf hi, whenAdmitted_of_not_inited (s := withoutSkip s) _ _ hf hi]
      rfl

/-- Settles O24: the rule leaves the same whether it skips or sends, and so does a refusal. -/
theorem brightSkipLeavesSameDevice : Obligations.BrightSkipLeavesSameDevice := by
  intro level s h
  have hseen := seenOutside_whenAdmitted_setbright level h
  simp only [seenOutside, Prod.mk.injEq] at hseen
  exact ⟨_, _, rfl, rfl, hseen⟩

/-! ### Content commands and transactions -/

theorem exec_wrframe_of_admitted (f : Frame) {s : State} (hf : s.fatal = false) (hi : s.inited = true) :
    exec (.wrframe f) s = .next { sentFrame f (sessionEnded s) with frame := some f } := by
  rw [exec, execWrframe, whenAdmitted_of_admitted _ _ hf hi, cancelSession_eq, sendFrame_eq]

theorem exec_wrtext_of_admitted (text : List Int) (dots : List Bool) {s : State} (hf : s.fatal = false)
    (hi : s.inited = true) : exec (.wrtext text dots) s = .next
      { sentFrame (encodeFrame s.cfg text dots) (logged text (sessionEnded s)) with
        frame := some (encodeFrame s.cfg text dots) } := by
  rw [exec, execWrtext, whenAdmitted_of_admitted _ _ hf hi, cancelSession_eq, sendText_eq]
  rfl

theorem exec_clear_of_admitted {s : State} (hf : s.fatal = false) (hi : s.inited = true) :
    exec .clear s = .next { sentFrame blankFrame (sessionEnded s) with frame := some blankFrame } := by
  rw [exec, execClear, whenAdmitted_of_admitted _ _ hf hi, cancelSession_eq, sendFrame_eq]

/-- Settles O20: R101's tests pass, the session ends, the frame is sent. -/
theorem wrframeResult : Obligations.WrframeResult := fun f _ => exec_wrframe_of_admitted f

/-- Settles O21: as O20, with the log events of `encode` before the frame. -/
theorem wrtextResult : Obligations.WrtextResult := fun text dots _ => exec_wrtext_of_admitted text dots

/-- Settles O22: the blank frame's register buffer is nine zero bytes. -/
theorem clearResult : Obligations.ClearResult := fun _ => exec_clear_of_admitted

theorem transact_of_alive (w : Wire) {s : State} (hf : s.fatal = false) : transact w s = busWrite w s :=
  if_neg (by simp [hf])

theorem transact_of_fatal (w : Wire) {s : State} (hf : s.fatal = true) : transact w s = s := if_pos hf

theorem exec_wFrame_of_alive (f : Frame) {s : State} (hf : s.fatal = false) :
    exec (.wFrame f) s = .next (sentFrame f s) := by
  rw [exec, execWFrame, transact_of_alive _ hf, busWrite_frame]

/-- Settles O23: outside the fatal state the transaction of each kind, in it none. -/
theorem wireTransactionResult : Obligations.WireTransactionResult := by
  constructor
  · intro s hf
    refine ⟨?_, fun rate => ?_, fun level => ?_, fun f => exec_wFrame_of_alive f hf⟩
    · rw [exec, execWOsc, transact_of_alive _ hf, busWrite_osc]
    · rw [exec, execWBlink, transact_of_alive _ hf, busWrite_blink]
    · rw [exec, execWBright, transact_of_alive _ hf, busWrite_bright]
  · intro s hf
    have hnone : ∀ w, transact w s = s := fun w => transact_of_fatal w hf
    exact ⟨congrArg _ (hnone _), fun _ => congrArg _ (hnone _), fun _ => congrArg _ (hnone _),
      fun _ => congrArg _ (hnone _)⟩

/-! ### The session's commands and the tick -/

theorem scrollRule_of_fits (stop : Bool) {text : List Int} (dots : List Bool) (ivl : Word) {s : State}
    (h : text.length ≤ s.cfg.textMax) : scrollRule stop text dots ivl s
      = emit (.timerArm ivl) { sessionEnded s with session := some (newSession stop text dots ivl) } := by
  rw [scrollRule, if_neg (by omega), cancelSession_eq]

/-- Settles O25: R101's tests pass, and the text fits. -/
theorem scrollResult : Obligations.ScrollResult := by
  intro stop text dots ivl s hf hi hlen
  rw [exec, execScroll, whenAdmitted_of_admitted _ _ hf hi, scrollRule_of_fits stop dots ivl hlen]
  rfl

theorem exec_scrstop_of_admitted {s : State} (hf : s.fatal = false) (hi : s.inited = true) :
    exec .scrstop s = .next (sessionEnded s) := by
  rw [exec, execScrstop, whenAdmitted_of_admitted _ _ hf hi, cancelSession_eq]

/-- R111: a session that has ended does not end again. -/
theorem sessionEnded_idem (s : State) : sessionEnded (sessionEnded s) = sessionEnded s := by
  simp [sessionEnded, State.active]

/-- Settles O28: R101's tests pass, and a session's end is idempotent. -/
theorem scrstopResult : Obligations.ScrstopResult := by
  refine fun s hf hi => ⟨exec_scrstop_of_admitted hf hi, ?_⟩
  rw [exec_scrstop_of_admitted (s := sessionEnded s) hf hi, sessionEnded_idem]

/-- Outside the fatal state a tick runs its session. -/
theorem exec_tick_of_session {x : Session} {s : State} (hf : s.fatal = false) (hx : s.session = some x) :
    exec .tick s = .next (tickSession x s) := by
  simp [exec, execTick, tickRule, hf, hx]

theorem exec_tick_send {x : Session} {s : State} (hf : s.fatal = false) (hx : s.session = some x)
    (hs : x.step ≤ x.total) : exec .tick s = .next
      { sentFrame (encodeFrame s.cfg (windowText x x.step) (windowDots x x.step))
          (logged (windowText x x.step) s) with
        frame := some (encodeFrame s.cfg (windowText x x.step) (windowDots x x.step))
        session := some { x with step := x.step + 1 } } := by
  rw [exec_tick_of_session hf hx, tickSession, if_neg (by omega), tickSend, sendText_eq]

/-- Settles O29: the third branch of R134. -/
theorem tickSendsWindow : Obligations.TickSendsWindow := fun _ _ => exec_tick_send

theorem exec_tick_wrap {x : Session} {s : State} (hf : s.fatal = false) (hx : s.session = some x)
    (hs : x.total < x.step) (hp : x.stop = false) :
    exec .tick s = .next { s with session := some { x with step := 0 } } := by
  rw [exec_tick_of_session hf hx, tickSession, if_pos hs, if_neg (by simp [hp])]

theorem exec_tick_end {x : Session} {s : State} (hf : s.fatal = false) (hx : s.session = some x)
    (hs : x.total < x.step) (hp : x.stop = true) :
    exec .tick s = .next { s with session := none, trace := s.trace ++ [.timerCancel] } := by
  rw [exec_tick_of_session hf hx, tickSession, if_pos hs, if_pos hp]
  rfl

/-- Settles O30: the two branches of R134 past the last step. -/
theorem tickPastEndWrapsOrEnds : Obligations.TickPastEndWrapsOrEnds :=
  fun _ _ hf hx hs => ⟨exec_tick_wrap hf hx hs, exec_tick_end hf hx hs⟩

/-! ### A pass -/

theorem ticks_of_next {s t : State} (n : Nat) (h : exec .tick s = .next t) : ticks (n + 1) s = ticks n t := by
  simp only [ticks, h]

/-- `n + 1` ticks are `n` ticks and one more. -/
theorem ticks_succ {n : Nat} {s t : State} (h : ticks n s = .next t) : ticks (n + 1) s = exec .tick t := by
  induction n generalizing s with
  | zero =>
    cases h
    obtain ⟨u, hu⟩ := exec_completes .tick t
    rw [ticks_of_next 0 hu, hu, ticks]
  | succ n ih =>
    obtain ⟨u, hu⟩ := exec_completes .tick s
    rw [ticks_of_next _ hu] at h ⊢
    exact ih h

/-- The register buffer of the frame of step `j`. -/
def stepBytes (cfg : Config) (x : Session) (j : Nat) : List Byte :=
  serialize (encodeFrame cfg (windowText x j) (windowDots x j))

theorem busBytes_sentFrame (f : Frame) (s : State) :
    busBytes (sentFrame f s).trace = busBytes s.trace ++ [serialize f] :=
  busBytes_sent _ _ _

/-- A pass after `k` ticks: the session is at step `k`, and the frames of the steps before are sent. -/
structure PassAt (x : Session) (s : State) (k : Nat) (t : State) : Prop where
  ticked : ticks k s = .next t
  fatal : t.fatal = false
  cfg : t.cfg = s.cfg
  session : t.session = some { x with step := k }
  sent : busBytes t.trace = busBytes s.trace ++ (List.range k).map (stepBytes s.cfg x)

/-- Within the pass one more tick sends one more frame. -/
theorem PassAt.next {x : Session} {s t : State} {k : Nat} (h : PassAt x s k t) (hk : k ≤ x.total) :
    ∃ u, PassAt x s (k + 1) u := by
  obtain ⟨hticks, hf, hcfg, hx, hsent⟩ := h
  have htick := exec_tick_send hf hx hk
  refine ⟨_, (ticks_succ hticks).trans htick, hf, hcfg, rfl, ?_⟩
  refine (busBytes_sentFrame _ _).trans ?_
  rw [busBytes_logged, hsent, hcfg, List.range_succ, List.map_append, List.append_assoc]
  rfl

/-- From step 0 the pass reaches every step up to the one after its last frame. -/
theorem passAt_of_le {x : Session} {s : State} (hf : s.fatal = false) (hx : s.session = some x) (h0 : x.step = 0)
    {k : Nat} (hk : k ≤ x.total + 1) : ∃ t, PassAt x s k t := by
  induction k with
  | zero =>
    have hstart : { x with step := 0 } = x := by rw [← h0]
    exact ⟨s, rfl, hf, rfl, hx.trans (congrArg some hstart.symm), (List.append_nil _).symm⟩
  | succ k ih =>
    obtain ⟨t, ht⟩ := ih (by omega)
    exact ht.next (by omega)

/-- Past its last frame a pass wraps or ends with the next tick, which sends nothing (R136, R137). -/
theorem PassAt.finish {x : Session} {s t : State} (h : PassAt x s (x.total + 1) t) :
    ∃ u, ticks (x.total + 2) s = .next u ∧ u.session = (if x.stop then none else some { x with step := 0 }) ∧
      busBytes u.trace = busBytes t.trace := by
  obtain ⟨hticks, hf, _, hx, _⟩ := h
  have hpast : x.total < x.total + 1 := Nat.lt_succ_self _
  by_cases hp : x.stop = true
  · refine ⟨_, (ticks_succ hticks).trans (exec_tick_end hf hx hpast hp), (if_pos hp).symm, ?_⟩
    exact (busBytes_append _ _).trans (List.append_nil _)
  · rw [if_neg hp]
    exact ⟨_, (ticks_succ hticks).trans (exec_tick_wrap hf hx hpast (Bool.eq_false_iff.mpr hp)), rfl, rfl⟩

/-- Settles O33: the pass up to the step after its last frame, by induction, and the tick past it. -/
theorem scrollPassSendsEveryStep : Obligations.ScrollPassSendsEveryStep := by
  intro x s hf hx h0 htotal
  constructor
  · intro k hk
    obtain ⟨t, ht⟩ := passAt_of_le hf hx h0 (k := k) (by omega)
    exact ⟨t, ht.ticked, ht.session, ht.sent⟩
  · obtain ⟨t, ht⟩ := passAt_of_le hf hx h0 (Nat.le_refl _)
    obtain ⟨u, hticks, hsession, hbytes⟩ := ht.finish
    have hsent := ht.sent
    rw [← hbytes] at hsent
    rw [htotal] at hticks hsent
    exact ⟨u, hticks, hsession, hsent⟩

/-- A window of spaces without flags is blank, for every table that keeps R83. -/
theorem encodeFrame_window_blank {cfg : Config} (hwf : cfg.wf = true) {x : Session} {k : Nat}
    (h : ∀ i < 4, window x (k + i) = (32, false)) :
    encodeFrame cfg (windowText x k) (windowDots x k) = ⟨0x0000#16, 0x0000#16, 0x0000#16, 0x0000#16⟩ := by
  have hslot : slotValue cfg 32 false = 0x0000#16 := slotValue_space hwf false
  have h0 := h 0 (by decide)
  rw [Nat.add_zero] at h0
  simp [encodeFrame, windowText, windowDots, slotChar, slotDot, h0, h 1, h 2, h 3, hslot]

/-- Settles O34: the window of step 0 lies before the text, that of step `L` + 4 after it. -/
theorem passBeginsAndEndsBlank : Obligations.PassBeginsAndEndsBlank := fun _ x hwf =>
  ⟨encodeFrame_window_blank hwf fun i hi => window_before x (by omega),
    encodeFrame_window_blank hwf fun i _ => window_after x (by omega)⟩

/-! ### The device memory after an operation -/

/-- An operation that sends a frame stores its data bytes. -/
theorem exec_ram_of_frame {i : Instr} {s t : State} {f : Frame} (h : exec i s = .next t)
    (hsent : frameSent i s = some f) : t.device.ram = memStore s.device.ram startAddr.toNat (frameBytes f) := by
  cases i with
  | wrframe g =>
    obtain ⟨⟨hf, hi⟩, hg⟩ := Option.ite_none_right_eq_some.mp hsent
    cases hg
    cases (exec_wrframe_of_admitted f hf hi).symm.trans h
    rfl
  | wrtext text dots =>
    obtain ⟨⟨hf, hi⟩, hg⟩ := Option.ite_none_right_eq_some.mp hsent
    cases hg
    cases (exec_wrtext_of_admitted text dots hf hi).symm.trans h
    rfl
  | clear =>
    obtain ⟨⟨hf, hi⟩, hg⟩ := Option.ite_none_right_eq_some.mp hsent
    cases hg
    cases (exec_clear_of_admitted hf hi).symm.trans h
    rfl
  | wFrame g =>
    obtain ⟨hf, hg⟩ := Option.ite_none_right_eq_some.mp hsent
    cases hg
    cases (exec_wFrame_of_alive f hf).symm.trans h
    rfl
  | tick =>
    cases hx : s.session with
    | none => simp [frameSent, hx] at hsent
    | some x =>
      simp only [frameSent, hx] at hsent
      obtain ⟨⟨hf, hs⟩, hg⟩ := Option.ite_none_right_eq_some.mp hsent
      cases hg
      cases (exec_tick_send hf hx hs).symm.trans h
      rfl
  | _ => cases hsent

/-- Settles O44: where no frame is sent the memory stays; else what a read finds after the store of its bytes. -/
theorem onlyFramesStoreAndOnlyTheirBytes : Obligations.OnlyFramesStoreAndOnlyTheirBytes := by
  refine fun i s t h => ⟨fun hn a => ?_, fun f hsent a => ?_⟩
  · rw [effect_ram_of_no_frame (exec_effect h) hn]
  · rw [exec_ram_of_frame h hsent]
    constructor
    · intro hlo hhi
      obtain ⟨k, rfl⟩ := Nat.exists_eq_add_of_le hlo
      rw [Nat.add_sub_cancel_left]
      exact memRead_memStore_inside _ _ _ _ (by rw [frameBytes_length]; omega)
    · exact memRead_memStore_outside (frameBytes f) s.device.ram startAddr.toNat a

end Sys2Proof.Machine
end

section
/-! SUPPORT. The lines of the decoder (30_encoding.md R64): each decodes exactly the packets of its own length, and O5
from them. -/

namespace Sys2Proof

/-- Exactly where `ok` holds the line of `op` answers an operation of that opcode; else it answers malformed. -/
def DecodesIff (op : Byte) (ok : Prop) (d : Decoded) : Prop :=
  (ok → ∃ i, d = .instr i ∧ opcodeByte i = some op) ∧ (¬ ok → d = .malformed op)

theorem decodesIff_instr {op : Byte} {ok : Prop} {i : Instr} (hok : ok) (hi : opcodeByte i = some op) :
    DecodesIff op ok (.instr i) :=
  ⟨fun _ => ⟨i, rfl, hi⟩, fun hn => absurd hok hn⟩

theorem decodesIff_malformed {op : Byte} {ok : Prop} (hn : ¬ ok) : DecodesIff op ok (.malformed op) :=
  ⟨fun hok => absurd hok hn, fun _ => rfl⟩

theorem decodeInit_iff (p : List Byte) : DecodesIff 0x01#8 (p.length = 4) (decodeInit p) := by
  unfold decodeInit
  split
  · exact decodesIff_instr rfl rfl
  · next hp =>
    refine decodesIff_malformed fun h => ?_
    obtain ⟨a, b, c, d, rfl⟩ := List.length_eq_four.mp h
    exact hp a b c d rfl

theorem decodeSetblink_iff (p : List Byte) : DecodesIff 0x02#8 (p.length = 2) (decodeSetblink p) := by
  unfold decodeSetblink
  split
  · exact decodesIff_instr rfl rfl
  · next hp =>
    refine decodesIff_malformed fun h => ?_
    obtain ⟨a, b, rfl⟩ := List.length_eq_two.mp h
    exact hp a b rfl

theorem decodeSetbright_iff (p : List Byte) : DecodesIff 0x03#8 (p.length = 2) (decodeSetbright p) := by
  unfold decodeSetbright
  split
  · exact decodesIff_instr rfl rfl
  · next hp =>
    refine decodesIff_malformed fun h => ?_
    obtain ⟨a, b, rfl⟩ := List.length_eq_two.mp h
    exact hp a b rfl

theorem decodeWrframe_iff (p : List Byte) : DecodesIff 0x04#8 (p.length = 8) (decodeWrframe p) := by
  unfold decodeWrframe
  split
  · exact decodesIff_instr rfl rfl
  · next hp =>
    refine decodesIff_malformed fun h => ?_
    match p, h with
    | [a0, a1, b0, b1, c0, c1, d0, d1], _ => exact hp a0 a1 b0 b1 c0 c1 d0 d1 rfl

/-- R59: the counts are the first two operand bytes; without them the packet is short of any required length. -/
theorem decodeWrtext_iff (p : List Byte) : DecodesIff 0x05#8
    (p.length = 2 + 2 * (p.getD 0 0#8).toNat + flagBytes (p.getD 1 0#8).toNat) (decodeWrtext p) := by
  unfold decodeWrtext
  split
  · next n m body =>
    have hlen : (n :: m :: body).length = 2 + 2 * n.toNat + flagBytes m.toNat
        ↔ body.length = 2 * n.toNat + flagBytes m.toNat := by
      simp only [List.length_cons]
      omega
    split
    · next h => exact decodesIff_instr (hlen.mpr h) rfl
    · next h => exact decodesIff_malformed fun hok => h (hlen.mp hok)
  · next hp =>
    refine decodesIff_malformed fun h => ?_
    match p with
    | n :: m :: body => exact hp n m body rfl
    | [] | [_] =>
      simp only [List.length_cons, List.length_nil] at h
      omega

theorem decodeClear_iff (p : List Byte) : DecodesIff 0x06#8 (p.length = 0) (decodeClear p) := by
  unfold decodeClear
  split
  · exact decodesIff_instr rfl rfl
  · next hp => exact decodesIff_malformed fun h => hp (List.length_eq_zero_iff.mp h)

/-- R61: as for `WRTEXT`, with the reserved flag bits tested before the length. -/
theorem decodeScroll_iff (p : List Byte) : DecodesIff 0x07#8
    (p.length = 7 + 2 * (word16 (p.getD 3 0#8) (p.getD 4 0#8)).toNat
        + flagBytes (word16 (p.getD 5 0#8) (p.getD 6 0#8)).toNat ∧ (p.getD 0 0#8).extractLsb' 1 7 = 0#7)
    (decodeScroll p) := by
  unfold decodeScroll
  split
  · next fl i0 i1 n0 n1 m0 m1 body =>
    have hlen : (fl :: i0 :: i1 :: n0 :: n1 :: m0 :: m1 :: body).length
        = 7 + 2 * (word16 n0 n1).toNat + flagBytes (word16 m0 m1).toNat
        ↔ body.length = 2 * (word16 n0 n1).toNat + flagBytes (word16 m0 m1).toNat := by
      simp only [List.length_cons]
      omega
    split
    · next hr => exact decodesIff_malformed fun ⟨_, hzero⟩ => hr hzero
    · next hr =>
      split
      · next h => exact decodesIff_instr ⟨hlen.mpr h, not_not.mp hr⟩ rfl
      · next h => exact decodesIff_malformed fun ⟨hok, _⟩ => h (hlen.mp hok)
  · next hp =>
    refine decodesIff_malformed fun ⟨h, _⟩ => ?_
    match p with
    | fl :: i0 :: i1 :: n0 :: n1 :: m0 :: m1 :: body => exact hp fl i0 i1 n0 n1 m0 m1 body rfl
    | [] | [_] | [_, _] | [_, _, _] | [_, _, _, _] | [_, _, _, _, _] | [_, _, _, _, _, _] =>
      simp only [List.length_cons, List.length_nil] at h
      omega

theorem decodeScrstop_iff (p : List Byte) : DecodesIff 0x08#8 (p.length = 0) (decodeScrstop p) := by
  unfold decodeScrstop
  split
  · exact decodesIff_instr rfl rfl
  · next hp => exact decodesIff_malformed fun h => hp (List.length_eq_zero_iff.mp h)

/-- The packets R64 decodes: of the required length, and in `SCROLL` with reserved bits 0. -/
def PacketOk (op : Byte) (rest : List Byte) : Prop :=
  (op :: rest).length = requiredLength (op :: rest) ∧ (op = 0x07#8 → (rest.getD 0 0#8).extractLsb' 1 7 = 0#7)

/-- Only `SCROLL` has reserved bits. -/
theorem packetOk_iff_length {op : Byte} {rest : List Byte} (hop : op ≠ 0x07#8) :
    PacketOk op rest ↔ rest.length + 1 = requiredLength (op :: rest) :=
  and_iff_left fun h => absurd h hop

theorem DecodesIff.congr {op : Byte} {ok ok' : Prop} {d : Decoded} (h : DecodesIff op ok d) (hok : ok ↔ ok') :
    DecodesIff op ok' d := by
  rwa [← propext hok]

theorem decode_iff (op : Byte) (rest : List Byte) (hlo : 0x01#8 ≤ op) (hhi : op ≤ 0x08#8) :
    DecodesIff op (PacketOk op rest) (decode (op :: rest)) := by
  have hop : op = 0x01#8 ∨ op = 0x02#8 ∨ op = 0x03#8 ∨ op = 0x04#8 ∨ op = 0x05#8 ∨ op = 0x06#8 ∨ op = 0x07#8
      ∨ op = 0x08#8 := by bv_omega
  rcases hop with rfl | rfl | rfl | rfl | rfl | rfl | rfl | rfl
  · exact (decodeInit_iff rest).congr (by simp [PacketOk, requiredLength])
  · exact (decodeSetblink_iff rest).congr (by simp [PacketOk, requiredLength])
  · exact (decodeSetbright_iff rest).congr (by simp [PacketOk, requiredLength])
  · exact (decodeWrframe_iff rest).congr (by simp [PacketOk, requiredLength])
  · refine (decodeWrtext_iff rest).congr (Iff.trans ?_ (packetOk_iff_length (by decide)).symm)
    change _ ↔ rest.length + 1 = 3 + 2 * (rest.getD 0 0#8).toNat + flagBytes (rest.getD 1 0#8).toNat
    omega
  · exact (decodeClear_iff rest).congr (by simp [PacketOk, requiredLength])
  · refine (decodeScroll_iff rest).congr (and_congr ?_ ⟨fun h _ => h, fun h => h rfl⟩)
    change _ ↔ rest.length + 1 = 8 + 2 * (word16 (rest.getD 3 0#8) (rest.getD 4 0#8)).toNat
      + flagBytes (word16 (rest.getD 5 0#8) (rest.getD 6 0#8)).toNat
    omega
  · exact (decodeScrstop_iff rest).congr (by simp [PacketOk, requiredLength])

/-- Settles O5: by the line of each of the eight opcodes. -/
theorem lengthDecidesPacket : Obligations.LengthDecidesPacket := by
  intro op rest hlo hhi
  obtain ⟨hok, hbad⟩ := decode_iff op rest hlo hhi
  refine ⟨fun h => hbad fun ⟨hlen, hreserved⟩ => ?_, fun hlen hreserved => hok ⟨hlen, hreserved⟩⟩
  rcases h with hne | ⟨hop, hbits⟩
  · exact hne hlen
  · exact hbits (hreserved hop)

end Sys2Proof
end

section
/-! SUPPORT. The configuration bytes (30_encoding.md R68 to R70): what R6's constraints make of their bits, and O3. -/

namespace Sys2Proof

/-- Bits that are clear may be masked out. -/
theorem and_not_of_and_eq_zero {a m : Byte} (h : a &&& m = 0#8) : a &&& ~~~m = a := by
  have hsplit : a = a &&& (m ||| ~~~m) := by rw [BitVec.or_not_self, BitVec.and_allOnes]
  rw [BitVec.and_or_distrib_left, h, BitVec.zero_or] at hsplit
  exact hsplit.symm

theorem getLsbD_of_and_eq_zero {a m : Byte} (h : a &&& m = 0#8) {k : Nat} (hk : m.getLsbD k = true) :
    a.getLsbD k = false := by
  have hbit : (a &&& m).getLsbD k = false := by rw [h, BitVec.getLsbD_zero]
  rwa [BitVec.getLsbD_and, hk, Bool.and_true] at hbit

/-- R6's constraints on the command constants. -/
theorem wf_fields_clear {c : Config} (h : c.wf = true) :
    c.kBlinkCmd &&& 0x07#8 = 0#8 ∧ c.kDisplayOn &&& 0x06#8 = 0#8 ∧ c.kBrightCmd &&& 0x0F#8 = 0#8 := by
  simp only [Config.wf, Bool.and_eq_true, decide_eq_true_eq] at h
  obtain ⟨⟨⟨⟨_, hblink⟩, hdisplay⟩, hbright⟩, _⟩ := h
  exact ⟨hblink, hdisplay, hbright⟩

section
variable {c : Config} (hwf : c.wf = true)
include hwf

/-- The blink byte outside its rate field is the blink command with the display on. -/
theorem blinkByte_mask (rate : BitVec 2) : blinkByte c rate &&& 0xF9#8 = c.kBlinkCmd ||| c.kDisplayOn := by
  obtain ⟨hblink, hdisplay, _⟩ := wf_fields_clear hwf
  have hblink6 : c.kBlinkCmd &&& 0x06#8 = 0#8 := by
    rw [show (0x06#8 : Byte) = 0x07#8 &&& 0x06#8 from rfl, ← BitVec.and_assoc, hblink, BitVec.zero_and]
  have hb : c.kBlinkCmd &&& 0xF9#8 = c.kBlinkCmd := and_not_of_and_eq_zero hblink6
  have hd : c.kDisplayOn &&& 0xF9#8 = c.kDisplayOn := and_not_of_and_eq_zero hdisplay
  rw [blinkByte, BitVec.and_comm, BitVec.and_or_distrib_left, BitVec.and_or_distrib_left, BitVec.and_comm _ c.kBlinkCmd,
    BitVec.and_comm _ c.kDisplayOn, BitVec.and_comm (0xF9#8), Machine.rateField_mask, hb, hd, BitVec.or_zero]

/-- The rate is read back from its field. -/
theorem blinkByte_rate (rate : BitVec 2) : (blinkByte c rate).extractLsb' 1 2 = rate := by
  obtain ⟨hblink, hdisplay, _⟩ := wf_fields_clear hwf
  refine BitVec.eq_of_getLsbD_eq fun k hk => ?_
  have hb : c.kBlinkCmd.getLsbD (1 + k) = false :=
    getLsbD_of_and_eq_zero hblink (by interval_cases k <;> rfl)
  have hd : c.kDisplayOn.getLsbD (1 + k) = false :=
    getLsbD_of_and_eq_zero hdisplay (by interval_cases k <;> rfl)
  have hin : 1 + k < 8 ∧ k < 8 := by omega
  rw [BitVec.getLsbD_extractLsb', blinkByte, BitVec.getLsbD_or, BitVec.getLsbD_or, hb, hd, BitVec.getLsbD_shiftLeft,
    BitVec.getLsbD_setWidth, Nat.add_sub_cancel_left]
  simp [hk, hin]

/-- The brightness byte outside its level field is the brightness command. -/
theorem brightByte_mask (level : BitVec 4) : brightByte c level &&& 0xF0#8 = c.kBrightCmd := by
  obtain ⟨_, _, hbright⟩ := wf_fields_clear hwf
  have hc : c.kBrightCmd &&& 0xF0#8 = c.kBrightCmd := and_not_of_and_eq_zero hbright
  have hl : ∀ level : BitVec 4, (level.setWidth 8 : Byte) &&& 0xF0#8 = 0#8 := by decide
  rw [brightByte, BitVec.and_comm, BitVec.and_or_distrib_left, BitVec.and_comm, BitVec.and_comm _ (level.setWidth 8),
    hc, hl, BitVec.or_zero]

/-- The level is read back from its field. -/
theorem brightByte_level (level : BitVec 4) : (brightByte c level).extractLsb' 0 4 = level := by
  obtain ⟨_, _, hbright⟩ := wf_fields_clear hwf
  refine BitVec.eq_of_getLsbD_eq fun k hk => ?_
  have hc : c.kBrightCmd.getLsbD k = false := getLsbD_of_and_eq_zero hbright (by interval_cases k <;> rfl)
  have hin : k < 8 := by omega
  rw [BitVec.getLsbD_extractLsb', Nat.zero_add, brightByte, BitVec.getLsbD_or, hc, BitVec.getLsbD_setWidth]
  simp [hk, hin]

/-- A blink byte is not the oscillator byte where their command bits differ. -/
theorem decodeWire_blinkByte (rate : BitVec 2) (hosc : c.kOscOn &&& 0xF9#8 ≠ c.kBlinkCmd ||| c.kDisplayOn) :
    decodeWire c [blinkByte c rate] = some (.wBlink rate) := by
  have hne : blinkByte c rate ≠ c.kOscOn := fun h => hosc (h ▸ blinkByte_mask hwf rate)
  simp only [decodeWire, hne, blinkByte_mask hwf, blinkByte_rate hwf, if_false, if_true]

/-- A brightness byte is neither of the other two where their command bits differ. -/
theorem decodeWire_brightByte (level : BitVec 4) (hosc : c.kOscOn &&& 0xF0#8 ≠ c.kBrightCmd)
    (hblink : (c.kBlinkCmd ||| c.kDisplayOn) &&& 0xF0#8 ≠ c.kBrightCmd) :
    decodeWire c [brightByte c level] = some (.wBright level) := by
  have hneOsc : brightByte c level ≠ c.kOscOn := fun h => hosc (h ▸ brightByte_mask hwf level)
  have hneBlink : brightByte c level &&& 0xF9#8 ≠ c.kBlinkCmd ||| c.kDisplayOn := fun h => hblink <| by
    rw [← h, BitVec.and_assoc]
    exact brightByte_mask hwf level
  simp only [decodeWire, hneOsc, hneBlink, brightByte_mask hwf, brightByte_level hwf, if_false, if_true]

end

/-- Settles O3: a configuration byte by its command bits and its field, a frame by its slots' bytes. -/
theorem wireBytesIdentifyTransaction : Obligations.WireBytesIdentifyTransaction := by
  intro c i bytes hwf hoscBlink hoscBright hblinkBright he
  cases i with
  | wOsc =>
    cases he
    exact if_pos rfl
  | wBlink rate =>
    cases he
    exact decodeWire_blinkByte hwf rate hoscBlink
  | wBright level =>
    cases he
    exact decodeWire_brightByte hwf level hoscBright hblinkBright
  | wFrame f =>
    cases he
    change (if startAddr = startAddr then
      some (Instr.wFrame ⟨word16 _ _, word16 _ _, word16 _ _, word16 _ _⟩) else none) = _
    simp only [word16_bytes, if_true]
  | _ => cases he

end Sys2Proof
end
